-- ==== Sys2Proof/Word.lean ====
section
/-! DEFINITION. The two word sizes of the machine (00_scope.md R6): a memory location and the accumulators
A and B hold 8 bits; X, Y, SP, PC, D and an address hold 16 bits. -/

namespace Sys2Proof

/-- One byte: a memory location, A, B, the CCR as a whole. -/
abbrev Byte := BitVec 8

/-- One 16-bit value: X, Y, SP, PC, D, an address. -/
abbrev Word := BitVec 16

end Sys2Proof
end

