-- ==== Sys2Proof/Syntax.lean ====
section
/-! DEFINITION. The instructions: one constructor of `Instr` for each of the 136 mnemonics (00_scope.md R4), and
for each mnemonic one operand constructor per format, so that every row of opcode_table.json is one constructor of
`Instr` applied to one operand constructor (30_encoding.md R82, R114, R135). Every bit of an encoding is kept. -/

namespace Sys2Proof

/-- A base register of indexed addressing: the postbyte field rr (30_encoding.md R100). -/
inductive BaseReg where
  | x | y | sp | pc
deriving DecidableEq, Repr

/-- A register that the auto forms may step; "pc not a valid choice" (30_encoding.md R105). -/
inductive AutoReg where
  | x | y | sp
deriving DecidableEq, Repr

/-- The field p of the auto forms (30_encoding.md R105). -/
inductive AutoMode where
  | pre | post
deriving DecidableEq, Repr

/-- The accumulator of an accumulator offset: the postbyte field aa (30_encoding.md R106). -/
inductive AccOffset where
  | a | b | d
deriving DecidableEq, Repr

/-- An indexed operand, as its postbyte and extension bytes select it (30_encoding.md R89, R100 to R107). -/
inductive IdxForm where
  /-- `n,r` with a 5-bit signed offset (R101). -/
  | off5 (r : BaseReg) (n : BitVec 5)
  /-- `n,r` with a 9-bit signed offset (R102). -/
  | off9 (r : BaseReg) (n : BitVec 9)
  /-- `n,r` with a 16-bit offset (R103). -/
  | off16 (r : BaseReg) (n : Word)
  /-- `[n,r]`, the pointer at a 16-bit offset (R104). -/
  | ind16 (r : BaseReg) (n : Word)
  /-- `n,-r` `n,+r` `n,r-` `n,r+`; `n` is the 4-bit field nnnn as encoded (R105). -/
  | auto (r : AutoReg) (m : AutoMode) (n : BitVec 4)
  /-- `A,r` `B,r` `D,r` (R106). -/
  | acc (r : BaseReg) (o : AccOffset)
  /-- `[D,r]` (R107). -/
  | indD (r : BaseReg)
deriving DecidableEq, Repr

/-- An 8-bit source operand: formats IMM8, DIR, EXT, IDX. -/
inductive Src8 where
  | imm (v : Byte)
  | dir (d : Byte)
  | ext (a : Word)
  | idx (f : IdxForm)
deriving DecidableEq, Repr

/-- A 16-bit source operand: formats IMM16, DIR, EXT, IDX. -/
inductive Src16 where
  | imm (v : Word)
  | dir (d : Byte)
  | ext (a : Word)
  | idx (f : IdxForm)
deriving DecidableEq, Repr

/-- A memory operand with a direct form: formats DIR, EXT, IDX. -/
inductive MemOp where
  | dir (d : Byte)
  | ext (a : Word)
  | idx (f : IdxForm)
deriving DecidableEq, Repr

/-- A memory operand without a direct form: formats EXT, IDX (read-modify-write and TST). -/
inductive RmwOp where
  | ext (a : Word)
  | idx (f : IdxForm)
deriving DecidableEq, Repr

/-- The source of MOVB. -/
inductive MovSrc8 where
  | imm (v : Byte)
  | ext (a : Word)
  | idx (f : IdxForm)
deriving DecidableEq, Repr

/-- The source of MOVW. -/
inductive MovSrc16 where
  | imm (v : Word)
  | ext (a : Word)
  | idx (f : IdxForm)
deriving DecidableEq, Repr

/-- The destination of MOVB and MOVW. With the three sources it gives the six MOV formats. -/
inductive MovDst where
  | ext (a : Word)
  | idx (f : IdxForm)
deriving DecidableEq, Repr

/-- The instructions, in the order of opcode_table.json. -/
inductive Instr where
  -- Data transfer (40_data_transfer.md)
  | ldaa (src : Src8)
  | ldab (src : Src8)
  | ldd (src : Src16)
  | ldx (src : Src16)
  | ldy (src : Src16)
  | lds (src : Src16)
  | staa (op : MemOp)
  | stab (op : MemOp)
  | std (op : MemOp)
  | stx (op : MemOp)
  | sty (op : MemOp)
  | sts (op : MemOp)
  | tab
  | tba
  | tap
  | tpa
  | movb (src : MovSrc8) (dst : MovDst)
  | movw (src : MovSrc16) (dst : MovDst)
  -- Shift and rotate (41_shift_rotate.md)
  | lsl (op : RmwOp)
  | lsla
  | lslb
  | lsld
  | lsr (op : RmwOp)
  | lsra
  | lsrb
  | lsrd
  | asl (op : RmwOp)
  | asla
  | aslb
  | asld
  | asr (op : RmwOp)
  | asra
  | asrb
  | rol (op : RmwOp)
  | rola
  | rolb
  | ror (op : RmwOp)
  | rora
  | rorb
  -- Arithmetic (42_arithmetic.md)
  | aba
  | abx
  | aby
  | adda (src : Src8)
  | addb (src : Src8)
  | addd (src : Src16)
  | adca (src : Src8)
  | adcb (src : Src8)
  | sba
  | suba (src : Src8)
  | subb (src : Src8)
  | subd (src : Src16)
  | sbca (src : Src8)
  | sbcb (src : Src8)
  | dec (op : RmwOp)
  | deca
  | decb
  | des
  | dex
  | dey
  | inc (op : RmwOp)
  | inca
  | incb
  | ins
  | inx
  | iny
  -- Logic and bit operations (43_logic_bit.md)
  | anda (src : Src8)
  | andb (src : Src8)
  | andcc (mask : Byte)
  | eora (src : Src8)
  | eorb (src : Src8)
  | oraa (src : Src8)
  | orab (src : Src8)
  | orcc (mask : Byte)
  | clc
  | cli
  | clv
  | com (op : RmwOp)
  | coma
  | comb
  | neg (op : RmwOp)
  | nega
  | negb
  | bclr (op : MemOp) (mask : Byte)
  | bita (src : Src8)
  | bitb (src : Src8)
  | bset (op : MemOp) (mask : Byte)
  -- Data test (44_data_test.md)
  | cba
  | cmpa (src : Src8)
  | cmpb (src : Src8)
  | cpd (src : Src16)
  | cps (src : Src16)
  | cpx (src : Src16)
  | cpy (src : Src16)
  | tst (op : RmwOp)
  | tsta
  | tstb
  -- Branches (45_branch.md)
  | brn (rel : Byte)
  | bra (rel : Byte)
  | bcc (rel : Byte)
  | bcs (rel : Byte)
  | beq (rel : Byte)
  | bne (rel : Byte)
  | bmi (rel : Byte)
  | bpl (rel : Byte)
  | bvs (rel : Byte)
  | bvc (rel : Byte)
  | bhs (rel : Byte)
  | bhi (rel : Byte)
  | bls (rel : Byte)
  | blo (rel : Byte)
  | bge (rel : Byte)
  | bgt (rel : Byte)
  | ble (rel : Byte)
  | blt (rel : Byte)
  | lbrn (rel : Word)
  | lbra (rel : Word)
  | lbcc (rel : Word)
  | lbcs (rel : Word)
  | lbeq (rel : Word)
  | lbne (rel : Word)
  | lbmi (rel : Word)
  | lbpl (rel : Word)
  | lbvs (rel : Word)
  | lbvc (rel : Word)
  | lbhs (rel : Word)
  | lbhi (rel : Word)
  | lbls (rel : Word)
  | lblo (rel : Word)
  | lbge (rel : Word)
  | lbgt (rel : Word)
  | lble (rel : Word)
  | lblt (rel : Word)
  | brset (op : MemOp) (mask : Byte) (rel : Byte)
  -- Subroutine call and SWI (46_subroutine_swi.md)
  | jsr (op : MemOp)
  | rts
  | swi
deriving DecidableEq, Repr

end Sys2Proof
end

