-- ==== Sys2Proof/WellFormed.lean ====
section
/-! DEFINITION. Which instructions the spec admits: the postbyte forms that a rule excludes (30_encoding.md R105,
R108, R114, R125, R131; 92_eei_decisions.md D18, D19, D21). The decoder and the meanings refuse the rest. -/

namespace Sys2Proof

/-- The number of extension bytes after the postbyte (30_encoding.md R81). -/
def IdxForm.extBytes : IdxForm → Nat
  | .off5 .. => 0
  | .off9 .. => 1
  | .off16 .. => 2
  | .ind16 .. => 2
  | .auto .. => 0
  | .acc .. => 0
  | .indD .. => 0

/-- The two indexed-indirect forms (30_encoding.md R104, R107). -/
def IdxForm.indirect : IdxForm → Bool
  | .ind16 .. => true
  | .indD .. => true
  | .off5 .. | .off9 .. | .off16 .. | .auto .. | .acc .. => false

/-- The base register is the PC (30_encoding.md R108). -/
def IdxForm.pcBased : IdxForm → Bool
  | .off5 r _ | .off9 r _ | .off16 r _ | .ind16 r _ | .acc r _ | .indD r => r == .pc
  | .auto .. => false

/-- The register that the form steps, if it is an auto form (30_encoding.md R105). -/
def IdxForm.stepped : IdxForm → Option AutoReg
  | .auto r _ _ => some r
  | .off5 .. | .off9 .. | .off16 .. | .ind16 .. | .acc .. | .indD .. => none

/-- The indexed form, if the operand has one. -/
def Src8.form : Src8 → Option IdxForm
  | .idx f => some f
  | .imm _ | .dir _ | .ext _ => none

/-- The indexed form, if the operand has one. -/
def RmwOp.form : RmwOp → Option IdxForm
  | .idx f => some f
  | .ext _ => none

/-- The indexed form, if the operand has one. -/
def Src16.form : Src16 → Option IdxForm
  | .idx f => some f
  | .imm _ | .dir _ | .ext _ => none

/-- The indexed form, if the operand has one. -/
def MemOp.form : MemOp → Option IdxForm
  | .idx f => some f
  | .dir _ | .ext _ => none

/-- The indexed form, if the operand has one. -/
def MovSrc8.form : MovSrc8 → Option IdxForm
  | .idx f => some f
  | .imm _ | .ext _ => none

/-- The indexed form, if the operand has one. -/
def MovSrc16.form : MovSrc16 → Option IdxForm
  | .idx f => some f
  | .imm _ | .ext _ => none

/-- The indexed form, if the operand has one. -/
def MovDst.form : MovDst → Option IdxForm
  | .idx f => some f
  | .ext _ => none

/-- The operand is no auto form on `r`, the register the instruction itself loads, stores, compares or, for JSR,
pushes with (30_encoding.md R105; 92_eei_decisions.md D19). -/
def notStepping (r : AutoReg) (f : Option IdxForm) : Bool :=
  f.bind IdxForm.stepped != some r

/-- An operand of BSET, BCLR, BRSET: neither indirect nor PC-based (30_encoding.md R108, R114, R131). -/
def bitOperandOk (f : Option IdxForm) : Bool :=
  f.all fun g => !g.indirect && !g.pcBased

/-- One operand of MOVB or MOVW: no extension byte, not indirect, not PC-based (30_encoding.md R108, R125). -/
def movOperandOk (f : Option IdxForm) : Bool :=
  f.all fun g => g.extBytes == 0 && !g.indirect && !g.pcBased

/-- Not two auto forms on one base register in one move (92_eei_decisions.md D21). -/
def movStepsOk (src dst : Option IdxForm) : Bool :=
  match src.bind IdxForm.stepped, dst.bind IdxForm.stepped with
  | some r, some r' => r != r'
  | _, _ => true

/-- The spec gives the instruction a meaning. -/
def Instr.wellFormed : Instr → Bool
  | .ldx src | .cpx src => notStepping .x src.form
  | .ldy src | .cpy src => notStepping .y src.form
  | .lds src | .cps src => notStepping .sp src.form
  | .stx op => notStepping .x op.form
  | .sty op => notStepping .y op.form
  | .sts op | .jsr op => notStepping .sp op.form
  | .bset op _ | .bclr op _ | .brset op _ _ => bitOperandOk op.form
  | .movb src dst => movOperandOk src.form && movOperandOk dst.form && movStepsOk src.form dst.form
  | .movw src dst => movOperandOk src.form && movOperandOk dst.form && movStepsOk src.form dst.form
  | .ldaa _ | .ldab _ | .ldd _ | .staa _ | .stab _ | .std _ | .tab | .tba | .tap | .tpa | .lsl _ | .lsla
  | .lslb | .lsld | .lsr _ | .lsra | .lsrb | .lsrd | .asl _ | .asla | .aslb | .asld | .asr _ | .asra | .asrb
  | .rol _ | .rola | .rolb | .ror _ | .rora | .rorb | .aba | .abx | .aby | .adda _ | .addb _ | .addd _
  | .adca _ | .adcb _ | .sba | .suba _ | .subb _ | .subd _ | .sbca _ | .sbcb _ | .dec _ | .deca | .decb
  | .des | .dex | .dey | .inc _ | .inca | .incb | .ins | .inx | .iny | .anda _ | .andb _ | .andcc _ | .eora _
  | .eorb _ | .oraa _ | .orab _ | .orcc _ | .clc | .cli | .clv | .com _ | .coma | .comb | .neg _ | .nega
  | .negb | .bita _ | .bitb _ | .cba | .cmpa _ | .cmpb _ | .cpd _ | .tst _ | .tsta | .tstb | .brn _ | .bra _
  | .bcc _ | .bcs _ | .beq _ | .bne _ | .bmi _ | .bpl _ | .bvs _ | .bvc _ | .bhs _ | .bhi _ | .bls _ | .blo _
  | .bge _ | .bgt _ | .ble _ | .blt _ | .lbrn _ | .lbra _ | .lbcc _ | .lbcs _ | .lbeq _ | .lbne _ | .lbmi _
  | .lbpl _ | .lbvs _ | .lbvc _ | .lbhs _ | .lbhi _ | .lbls _ | .lblo _ | .lbge _ | .lbgt _ | .lble _
  | .lblt _ | .rts | .swi => true

end Sys2Proof
end

