-- ==== Sys2Proof/Decode.lean ====
section
/-! DEFINITION. The binary encoding: a decoder, total on any bytes, and after it the encoder, both written from
30_encoding.md and opcode_table.json. Bytes that match no row, or a row with an excluded postbyte form, are refused
(R131). -/

namespace Sys2Proof

/-! ## Byte order (20_memory.md R53) -/

/-- Bits 15..8. -/
def hiByte (w : Word) : Byte := w.extractLsb' 8 8

/-- Bits 7..0. -/
def loByte (w : Word) : Byte := w.extractLsb' 0 8

/-- A 16-bit value from its high and low byte: `hi : lo`. -/
def join (hi lo : Byte) : Word := hi ++ lo

/-! ## The decoder -/

/-- What reading an instruction from bytes gives. -/
inductive Decoded where
  /-- An instruction, and the bytes after it. -/
  | instr (i : Instr) (rest : List Byte)
  /-- The bytes end inside an instruction. -/
  | more
  /-- No instruction starts with these bytes (30_encoding.md R131). -/
  | refused
deriving DecidableEq, Repr

/-- Something that reads an instruction, or the rest of one, from bytes at ascending addresses. -/
abbrev Reader := List Byte → Decoded

/-- Read one byte (20_memory.md R67). -/
def byte (k : Byte → Reader) : Reader
  | [] => .more
  | b :: bs => k b bs

/-- Read a 16-bit field, high byte first (30_encoding.md R80). -/
def word (k : Word → Reader) : Reader := byte fun hi => byte fun lo => k (join hi lo)

/-- All bytes that the format and its postbytes require are read: refuse the excluded operand forms
(30_encoding.md R81, R131; 60_exceptions.md R426; log 12). -/
def done (i : Instr) : Reader := fun bs => if i.wellFormed then .instr i bs else .refused

/-! ### The indexed postbyte -/

/-- "rr: 00 = X, 01 = Y, 10 = SP, 11 = PC" (30_encoding.md R100). -/
def BaseReg.ofBits (rr : BitVec 2) : BaseReg :=
  if rr = 0#2 then .x else if rr = 1#2 then .y else if rr = 2#2 then .sp else .pc

/-- The register of an auto form (30_encoding.md R105). The field cannot be 11 there: a postbyte that starts with
111 is no auto form (R100). -/
def AutoReg.ofBits (rr : BitVec 2) : AutoReg :=
  if rr = 0#2 then .x else if rr = 1#2 then .y else .sp

/-- The form of a postbyte that takes no extension byte (30_encoding.md R100, R101, R105, R106, R107); `none` for
one that takes extension bytes (R102, R103, R104). -/
def IdxForm.ofPostbyte (xb : Byte) : Option IdxForm :=
  if xb.extractLsb' 5 3 = 7#3 then
    let r := BaseReg.ofBits (xb.extractLsb' 3 2)
    if xb.getLsbD 2 then
      let aa := xb.extractLsb' 0 2
      some (if aa = 0#2 then .acc r .a else if aa = 1#2 then .acc r .b else if aa = 2#2 then .acc r .d else .indD r)
    else none
  else if xb.getLsbD 5 then
    some (.auto (AutoReg.ofBits (xb.extractLsb' 6 2)) (if xb.getLsbD 4 then .post else .pre) (xb.extractLsb' 0 4))
  else some (.off5 (BaseReg.ofBits (xb.extractLsb' 6 2)) (xb.extractLsb' 0 5))

/-- Read a postbyte and its extension bytes (30_encoding.md R81, R100 to R107). -/
def idx (k : IdxForm → Reader) : Reader := byte fun xb =>
  match IdxForm.ofPostbyte xb with
  | some f => k f
  | none =>
    let r := BaseReg.ofBits (xb.extractLsb' 3 2)
    if xb.getLsbD 1 then
      if xb.getLsbD 0 then word fun n => k (.ind16 r n) else word fun n => k (.off16 r n)
    else byte fun ee => k (.off9 r (xb.extractLsb' 0 1 ++ ee))

/-! ### The rows of opcode_table.json -/

/-- A row: the opcode byte, and the reader of what follows it. -/
abbrev Row := Byte × Reader

/-- IMM8, DIR, EXT, IDX. -/
def rowsSrc8 (imm dir ext ix : Byte) (mk : Src8 → Instr) : List Row :=
  [(imm, byte fun ii => done (mk (.imm ii))), (dir, byte fun dd => done (mk (.dir dd))),
   (ext, word fun hl => done (mk (.ext hl))), (ix, idx fun f => done (mk (.idx f)))]

/-- IMM16, DIR, EXT, IDX. -/
def rowsSrc16 (imm dir ext ix : Byte) (mk : Src16 → Instr) : List Row :=
  [(imm, word fun jk => done (mk (.imm jk))), (dir, byte fun dd => done (mk (.dir dd))),
   (ext, word fun hl => done (mk (.ext hl))), (ix, idx fun f => done (mk (.idx f)))]

/-- DIR, EXT, IDX. -/
def rowsMem (dir ext ix : Byte) (mk : MemOp → Instr) : List Row :=
  [(dir, byte fun dd => done (mk (.dir dd))), (ext, word fun hl => done (mk (.ext hl))),
   (ix, idx fun f => done (mk (.idx f)))]

/-- EXT, IDX. -/
def rowsRmw (ext ix : Byte) (mk : RmwOp → Instr) : List Row :=
  [(ext, word fun hl => done (mk (.ext hl))), (ix, idx fun f => done (mk (.idx f)))]

/-- DIR_M, EXT_M, IDX_M. -/
def rowsMask (dir ext ix : Byte) (mk : MemOp → Byte → Instr) : List Row :=
  [(dir, byte fun dd => byte fun mm => done (mk (.dir dd) mm)),
   (ext, word fun hl => byte fun mm => done (mk (.ext hl) mm)),
   (ix, idx fun f => byte fun mm => done (mk (.idx f) mm))]

/-- DIR_M_REL, EXT_M_REL, IDX_M_REL. -/
def rowsMaskRel (dir ext ix : Byte) (mk : MemOp → Byte → Byte → Instr) : List Row :=
  [(dir, byte fun dd => byte fun mm => byte fun rr => done (mk (.dir dd) mm rr)),
   (ext, word fun hl => byte fun mm => byte fun rr => done (mk (.ext hl) mm rr)),
   (ix, idx fun f => byte fun mm => byte fun rr => done (mk (.idx f) mm rr))]

/-- 8-bit source operands. -/
def page1Src8 : List Row :=
  rowsSrc8 0x86#8 0x96#8 0xB6#8 0xA6#8 .ldaa ++ rowsSrc8 0xC6#8 0xD6#8 0xF6#8 0xE6#8 .ldab ++
  rowsSrc8 0x8B#8 0x9B#8 0xBB#8 0xAB#8 .adda ++ rowsSrc8 0xCB#8 0xDB#8 0xFB#8 0xEB#8 .addb ++
  rowsSrc8 0x89#8 0x99#8 0xB9#8 0xA9#8 .adca ++ rowsSrc8 0xC9#8 0xD9#8 0xF9#8 0xE9#8 .adcb ++
  rowsSrc8 0x80#8 0x90#8 0xB0#8 0xA0#8 .suba ++ rowsSrc8 0xC0#8 0xD0#8 0xF0#8 0xE0#8 .subb ++
  rowsSrc8 0x82#8 0x92#8 0xB2#8 0xA2#8 .sbca ++ rowsSrc8 0xC2#8 0xD2#8 0xF2#8 0xE2#8 .sbcb ++
  rowsSrc8 0x84#8 0x94#8 0xB4#8 0xA4#8 .anda ++ rowsSrc8 0xC4#8 0xD4#8 0xF4#8 0xE4#8 .andb ++
  rowsSrc8 0x88#8 0x98#8 0xB8#8 0xA8#8 .eora ++ rowsSrc8 0xC8#8 0xD8#8 0xF8#8 0xE8#8 .eorb ++
  rowsSrc8 0x8A#8 0x9A#8 0xBA#8 0xAA#8 .oraa ++ rowsSrc8 0xCA#8 0xDA#8 0xFA#8 0xEA#8 .orab ++
  rowsSrc8 0x85#8 0x95#8 0xB5#8 0xA5#8 .bita ++ rowsSrc8 0xC5#8 0xD5#8 0xF5#8 0xE5#8 .bitb ++
  rowsSrc8 0x81#8 0x91#8 0xB1#8 0xA1#8 .cmpa ++ rowsSrc8 0xC1#8 0xD1#8 0xF1#8 0xE1#8 .cmpb

/-- 16-bit source operands. -/
def page1Src16 : List Row :=
  rowsSrc16 0xCC#8 0xDC#8 0xFC#8 0xEC#8 .ldd ++ rowsSrc16 0xCE#8 0xDE#8 0xFE#8 0xEE#8 .ldx ++
  rowsSrc16 0xCD#8 0xDD#8 0xFD#8 0xED#8 .ldy ++ rowsSrc16 0xCF#8 0xDF#8 0xFF#8 0xEF#8 .lds ++
  rowsSrc16 0xC3#8 0xD3#8 0xF3#8 0xE3#8 .addd ++ rowsSrc16 0x83#8 0x93#8 0xB3#8 0xA3#8 .subd ++
  rowsSrc16 0x8C#8 0x9C#8 0xBC#8 0xAC#8 .cpd ++ rowsSrc16 0x8F#8 0x9F#8 0xBF#8 0xAF#8 .cps ++
  rowsSrc16 0x8E#8 0x9E#8 0xBE#8 0xAE#8 .cpx ++ rowsSrc16 0x8D#8 0x9D#8 0xBD#8 0xAD#8 .cpy

/-- Stores and JSR. -/
def page1Mem : List Row :=
  rowsMem 0x5A#8 0x7A#8 0x6A#8 .staa ++ rowsMem 0x5B#8 0x7B#8 0x6B#8 .stab ++
  rowsMem 0x5C#8 0x7C#8 0x6C#8 .std ++ rowsMem 0x5E#8 0x7E#8 0x6E#8 .stx ++ rowsMem 0x5D#8 0x7D#8 0x6D#8 .sty ++
  rowsMem 0x5F#8 0x7F#8 0x6F#8 .sts ++ rowsMem 0x17#8 0x16#8 0x15#8 .jsr

/-- Read-modify-write and test of memory. -/
def page1Rmw : List Row :=
  rowsRmw 0x78#8 0x68#8 .lsl ++ rowsRmw 0x74#8 0x64#8 .lsr ++ rowsRmw 0x77#8 0x67#8 .asr ++
  rowsRmw 0x75#8 0x65#8 .rol ++ rowsRmw 0x76#8 0x66#8 .ror ++ rowsRmw 0x73#8 0x63#8 .dec ++
  rowsRmw 0x72#8 0x62#8 .inc ++ rowsRmw 0x71#8 0x61#8 .com ++ rowsRmw 0x70#8 0x60#8 .neg ++
  rowsRmw 0xF7#8 0xE7#8 .tst

/-- BCLR, BSET, BRSET. -/
def page1Mask : List Row :=
  rowsMask 0x4D#8 0x1D#8 0x0D#8 .bclr ++ rowsMask 0x4C#8 0x1C#8 0x0C#8 .bset ++
  rowsMaskRel 0x4E#8 0x1E#8 0x0E#8 .brset

/-- Inherent, one byte. -/
def page1Inh : List Row :=
  [(0x48#8, done .lsla)] ++ [(0x58#8, done .lslb)] ++ [(0x59#8, done .lsld)] ++ [(0x44#8, done .lsra)] ++
  [(0x54#8, done .lsrb)] ++ [(0x49#8, done .lsrd)] ++ [(0x47#8, done .asra)] ++ [(0x57#8, done .asrb)] ++
  [(0x45#8, done .rola)] ++ [(0x55#8, done .rolb)] ++ [(0x46#8, done .rora)] ++ [(0x56#8, done .rorb)] ++
  [(0x43#8, done .deca)] ++ [(0x53#8, done .decb)] ++ [(0x09#8, done .dex)] ++ [(0x03#8, done .dey)] ++
  [(0x42#8, done .inca)] ++ [(0x52#8, done .incb)] ++ [(0x08#8, done .inx)] ++ [(0x02#8, done .iny)] ++
  [(0x41#8, done .coma)] ++ [(0x51#8, done .comb)] ++ [(0x40#8, done .nega)] ++ [(0x50#8, done .negb)] ++
  [(0x97#8, done .tsta)] ++ [(0xD7#8, done .tstb)] ++ [(0x3D#8, done .rts)] ++ [(0x3F#8, done .swi)]

/-- Short branches. -/
def page1Rel : List Row :=
  [(0x21#8, byte fun rr => done (.brn rr))] ++ [(0x20#8, byte fun rr => done (.bra rr))] ++
  [(0x24#8, byte fun rr => done (.bcc rr))] ++ [(0x25#8, byte fun rr => done (.bcs rr))] ++
  [(0x27#8, byte fun rr => done (.beq rr))] ++ [(0x26#8, byte fun rr => done (.bne rr))] ++
  [(0x2B#8, byte fun rr => done (.bmi rr))] ++ [(0x2A#8, byte fun rr => done (.bpl rr))] ++
  [(0x29#8, byte fun rr => done (.bvs rr))] ++ [(0x28#8, byte fun rr => done (.bvc rr))] ++
  [(0x22#8, byte fun rr => done (.bhi rr))] ++ [(0x23#8, byte fun rr => done (.bls rr))] ++
  [(0x2C#8, byte fun rr => done (.bge rr))] ++ [(0x2E#8, byte fun rr => done (.bgt rr))] ++
  [(0x2F#8, byte fun rr => done (.ble rr))] ++ [(0x2D#8, byte fun rr => done (.blt rr))]

/-- ANDCC, and CLC, CLI, CLV, which are ANDCC with three masks: rows with two fixed bytes come first
(30_encoding.md R123, R135). -/
def readAndcc : Reader := byte fun ii =>
  if ii = 0xFE#8 then done .clc else if ii = 0xEF#8 then done .cli else if ii = 0xFD#8 then done .clv
  else done (.andcc ii)

/-- One fixed second byte, and nothing else (30_encoding.md R123). -/
def fixed (b : Byte) (i : Instr) : Reader := byte fun pb => if pb = b then done i else fun _ => .refused

/-- Two fixed second bytes, and nothing else (30_encoding.md R123). -/
def fixed2 (b : Byte) (i : Instr) (c : Byte) (j : Instr) : Reader := byte fun pb =>
  if pb = b then done i else if pb = c then done j else fun _ => .refused

/-- ANDCC, ORCC and the inherent instructions with a fixed second byte (30_encoding.md R121, R123). -/
def page1Fixed : List Row :=
  [(0x10#8, readAndcc), (0x14#8, byte fun ii => done (.orcc ii)), (0x1A#8, fixed 0xE5#8 .abx),
   (0x19#8, fixed 0xED#8 .aby), (0x1B#8, fixed2 0x9F#8 .des 0x81#8 .ins),
   (0xB7#8, fixed2 0x02#8 .tap 0x20#8 .tpa)]

/-- Page 1: the first byte selects (30_encoding.md R83). -/
def page1 : List Row :=
  page1Src8 ++ page1Src16 ++ page1Mem ++ page1Rmw ++ page1Mask ++ page1Inh ++ page1Rel ++ page1Fixed

/-- MOVW, its six formats (30_encoding.md R82, R122). A postbyte that takes extension bytes is read with them, right
after it, and the instruction is then refused (R81, R125; 60_exceptions.md R426; log 12). -/
def page2Movw : List Row :=
  [(0x00#8, idx fun f => word fun jk => done (.movw (.imm jk) (.idx f))),
   (0x01#8, idx fun f => word fun hl => done (.movw (.ext hl) (.idx f))),
   (0x02#8, idx fun f => idx fun g => done (.movw (.idx f) (.idx g))),
   (0x03#8, word fun jk => word fun hl => done (.movw (.imm jk) (.ext hl))),
   (0x04#8, word fun sa => word fun da => done (.movw (.ext sa) (.ext da))),
   (0x05#8, idx fun f => word fun hl => done (.movw (.idx f) (.ext hl)))]

/-- MOVB, its six formats (30_encoding.md R82, R122); postbytes as in MOVW. -/
def page2Movb : List Row :=
  [(0x08#8, idx fun f => byte fun ii => done (.movb (.imm ii) (.idx f))),
   (0x09#8, idx fun f => word fun hl => done (.movb (.ext hl) (.idx f))),
   (0x0A#8, idx fun f => idx fun g => done (.movb (.idx f) (.idx g))),
   (0x0B#8, byte fun ii => word fun hl => done (.movb (.imm ii) (.ext hl))),
   (0x0C#8, word fun sa => word fun da => done (.movb (.ext sa) (.ext da))),
   (0x0D#8, idx fun f => word fun hl => done (.movb (.idx f) (.ext hl)))]

/-- Inherent instructions of page 2 and the long branches (30_encoding.md R122). -/
def page2Rest : List Row :=
  [(0x0E#8, done .tab)] ++ [(0x0F#8, done .tba)] ++ [(0x06#8, done .aba)] ++ [(0x16#8, done .sba)] ++
  [(0x17#8, done .cba)] ++ [(0x21#8, word fun qr => done (.lbrn qr))] ++
  [(0x20#8, word fun qr => done (.lbra qr))] ++ [(0x24#8, word fun qr => done (.lbcc qr))] ++
  [(0x25#8, word fun qr => done (.lbcs qr))] ++ [(0x27#8, word fun qr => done (.lbeq qr))] ++
  [(0x26#8, word fun qr => done (.lbne qr))] ++ [(0x2B#8, word fun qr => done (.lbmi qr))] ++
  [(0x2A#8, word fun qr => done (.lbpl qr))] ++ [(0x29#8, word fun qr => done (.lbvs qr))] ++
  [(0x28#8, word fun qr => done (.lbvc qr))] ++ [(0x22#8, word fun qr => done (.lbhi qr))] ++
  [(0x23#8, word fun qr => done (.lbls qr))] ++ [(0x2C#8, word fun qr => done (.lbge qr))] ++
  [(0x2E#8, word fun qr => done (.lbgt qr))] ++ [(0x2F#8, word fun qr => done (.lble qr))] ++
  [(0x2D#8, word fun qr => done (.lblt qr))]

/-- Page 2: the byte after the prefix $18 selects (30_encoding.md R83). -/
def page2 : List Row := page2Movw ++ page2Movb ++ page2Rest

/-- The reader of the row that an opcode byte selects; a byte in no row is refused (30_encoding.md R131). -/
def find : List Row → Byte → Reader
  | [], _ => fun _ => .refused
  | (b, r) :: rows, op => if op = b then r else find rows op

/-- Read one instruction from bytes at ascending addresses (30_encoding.md R81). -/
def decode : Reader := byte fun op => if op = 0x18#8 then byte fun op2 => find page2 op2 else find page1 op

/-! ## The encoder (30_encoding.md R82, R100 to R107, R120 to R123) -/

/-- The field rr. -/
def BaseReg.bits : BaseReg → BitVec 2
  | .x => 0#2
  | .y => 1#2
  | .sp => 2#2
  | .pc => 3#2

/-- The field rr of an auto form. -/
def AutoReg.bits : AutoReg → BitVec 2
  | .x => 0#2
  | .y => 1#2
  | .sp => 2#2

/-- The field p. -/
def AutoMode.bits : AutoMode → BitVec 1
  | .pre => 0#1
  | .post => 1#1

/-- The field aa. -/
def AccOffset.bits : AccOffset → BitVec 2
  | .a => 0#2
  | .b => 1#2
  | .d => 2#2

/-- The postbyte and its extension bytes. -/
def IdxForm.bytes : IdxForm → List Byte
  | .off5 r n => [r.bits ++ 0#1 ++ n]
  | .off9 r n => [7#3 ++ r.bits ++ 0#2 ++ n.extractLsb' 8 1, n.extractLsb' 0 8]
  | .off16 r n => [7#3 ++ r.bits ++ 2#3, hiByte n, loByte n]
  | .ind16 r n => [7#3 ++ r.bits ++ 3#3, hiByte n, loByte n]
  | .auto r m n => [r.bits ++ 1#1 ++ m.bits ++ n]
  | .acc r o => [7#3 ++ r.bits ++ 1#1 ++ o.bits]
  | .indD r => [7#3 ++ r.bits ++ 7#3]

/-- The opcode and operand bytes; the arguments are the opcodes of IMM8, DIR, EXT, IDX. -/
def Src8.bytes (imm dir ext ix : Byte) : Src8 → List Byte
  | .imm v => [imm, v]
  | .dir d => [dir, d]
  | .ext a => [ext, hiByte a, loByte a]
  | .idx f => ix :: f.bytes

/-- The opcode and operand bytes; the arguments are the opcodes of IMM16, DIR, EXT, IDX. -/
def Src16.bytes (imm dir ext ix : Byte) : Src16 → List Byte
  | .imm v => [imm, hiByte v, loByte v]
  | .dir d => [dir, d]
  | .ext a => [ext, hiByte a, loByte a]
  | .idx f => ix :: f.bytes

/-- The opcode and operand bytes; the arguments are the opcodes of DIR, EXT, IDX. -/
def MemOp.bytes (dir ext ix : Byte) : MemOp → List Byte
  | .dir d => [dir, d]
  | .ext a => [ext, hiByte a, loByte a]
  | .idx f => ix :: f.bytes

/-- The opcode and operand bytes; the arguments are the opcodes of EXT, IDX. -/
def RmwOp.bytes (ext ix : Byte) : RmwOp → List Byte
  | .ext a => [ext, hiByte a, loByte a]
  | .idx f => ix :: f.bytes

/-- MOVB. To an indexed destination the destination's postbyte comes before an immediate or an extended source. -/
def encodeMovb : MovSrc8 → MovDst → List Byte
  | .imm v, .idx f => [0x18#8, 0x08#8] ++ f.bytes ++ [v]
  | .ext a, .idx f => [0x18#8, 0x09#8] ++ f.bytes ++ [hiByte a, loByte a]
  | .idx f, .idx g => [0x18#8, 0x0A#8] ++ f.bytes ++ g.bytes
  | .imm v, .ext a => [0x18#8, 0x0B#8, v, hiByte a, loByte a]
  | .ext s, .ext d => [0x18#8, 0x0C#8, hiByte s, loByte s, hiByte d, loByte d]
  | .idx f, .ext a => [0x18#8, 0x0D#8] ++ f.bytes ++ [hiByte a, loByte a]

/-- MOVW, as MOVB with a 16-bit immediate. -/
def encodeMovw : MovSrc16 → MovDst → List Byte
  | .imm v, .idx f => [0x18#8, 0x00#8] ++ f.bytes ++ [hiByte v, loByte v]
  | .ext a, .idx f => [0x18#8, 0x01#8] ++ f.bytes ++ [hiByte a, loByte a]
  | .idx f, .idx g => [0x18#8, 0x02#8] ++ f.bytes ++ g.bytes
  | .imm v, .ext a => [0x18#8, 0x03#8, hiByte v, loByte v, hiByte a, loByte a]
  | .ext s, .ext d => [0x18#8, 0x04#8, hiByte s, loByte s, hiByte d, loByte d]
  | .idx f, .ext a => [0x18#8, 0x05#8] ++ f.bytes ++ [hiByte a, loByte a]

/-- The bytes of an instruction. -/
def encode : Instr → List Byte
  | .ldaa src => src.bytes 0x86#8 0x96#8 0xB6#8 0xA6#8
  | .ldab src => src.bytes 0xC6#8 0xD6#8 0xF6#8 0xE6#8
  | .ldd src => src.bytes 0xCC#8 0xDC#8 0xFC#8 0xEC#8
  | .ldx src => src.bytes 0xCE#8 0xDE#8 0xFE#8 0xEE#8
  | .ldy src => src.bytes 0xCD#8 0xDD#8 0xFD#8 0xED#8
  | .lds src => src.bytes 0xCF#8 0xDF#8 0xFF#8 0xEF#8
  | .staa op => op.bytes 0x5A#8 0x7A#8 0x6A#8
  | .stab op => op.bytes 0x5B#8 0x7B#8 0x6B#8
  | .std op => op.bytes 0x5C#8 0x7C#8 0x6C#8
  | .stx op => op.bytes 0x5E#8 0x7E#8 0x6E#8
  | .sty op => op.bytes 0x5D#8 0x7D#8 0x6D#8
  | .sts op => op.bytes 0x5F#8 0x7F#8 0x6F#8
  | .tab => [0x18#8, 0x0E#8]
  | .tba => [0x18#8, 0x0F#8]
  | .tap => [0xB7#8, 0x02#8]
  | .tpa => [0xB7#8, 0x20#8]
  | .movb src dst => encodeMovb src dst
  | .movw src dst => encodeMovw src dst
  | .lsl op => op.bytes 0x78#8 0x68#8
  | .lsla => [0x48#8]
  | .lslb => [0x58#8]
  | .lsld => [0x59#8]
  | .lsr op => op.bytes 0x74#8 0x64#8
  | .lsra => [0x44#8]
  | .lsrb => [0x54#8]
  | .lsrd => [0x49#8]
  | .asl op => op.bytes 0x78#8 0x68#8
  | .asla => [0x48#8]
  | .aslb => [0x58#8]
  | .asld => [0x59#8]
  | .asr op => op.bytes 0x77#8 0x67#8
  | .asra => [0x47#8]
  | .asrb => [0x57#8]
  | .rol op => op.bytes 0x75#8 0x65#8
  | .rola => [0x45#8]
  | .rolb => [0x55#8]
  | .ror op => op.bytes 0x76#8 0x66#8
  | .rora => [0x46#8]
  | .rorb => [0x56#8]
  | .aba => [0x18#8, 0x06#8]
  | .abx => [0x1A#8, 0xE5#8]
  | .aby => [0x19#8, 0xED#8]
  | .adda src => src.bytes 0x8B#8 0x9B#8 0xBB#8 0xAB#8
  | .addb src => src.bytes 0xCB#8 0xDB#8 0xFB#8 0xEB#8
  | .addd src => src.bytes 0xC3#8 0xD3#8 0xF3#8 0xE3#8
  | .adca src => src.bytes 0x89#8 0x99#8 0xB9#8 0xA9#8
  | .adcb src => src.bytes 0xC9#8 0xD9#8 0xF9#8 0xE9#8
  | .sba => [0x18#8, 0x16#8]
  | .suba src => src.bytes 0x80#8 0x90#8 0xB0#8 0xA0#8
  | .subb src => src.bytes 0xC0#8 0xD0#8 0xF0#8 0xE0#8
  | .subd src => src.bytes 0x83#8 0x93#8 0xB3#8 0xA3#8
  | .sbca src => src.bytes 0x82#8 0x92#8 0xB2#8 0xA2#8
  | .sbcb src => src.bytes 0xC2#8 0xD2#8 0xF2#8 0xE2#8
  | .dec op => op.bytes 0x73#8 0x63#8
  | .deca => [0x43#8]
  | .decb => [0x53#8]
  | .des => [0x1B#8, 0x9F#8]
  | .dex => [0x09#8]
  | .dey => [0x03#8]
  | .inc op => op.bytes 0x72#8 0x62#8
  | .inca => [0x42#8]
  | .incb => [0x52#8]
  | .ins => [0x1B#8, 0x81#8]
  | .inx => [0x08#8]
  | .iny => [0x02#8]
  | .anda src => src.bytes 0x84#8 0x94#8 0xB4#8 0xA4#8
  | .andb src => src.bytes 0xC4#8 0xD4#8 0xF4#8 0xE4#8
  | .andcc mask => [0x10#8, mask]
  | .eora src => src.bytes 0x88#8 0x98#8 0xB8#8 0xA8#8
  | .eorb src => src.bytes 0xC8#8 0xD8#8 0xF8#8 0xE8#8
  | .oraa src => src.bytes 0x8A#8 0x9A#8 0xBA#8 0xAA#8
  | .orab src => src.bytes 0xCA#8 0xDA#8 0xFA#8 0xEA#8
  | .orcc mask => [0x14#8, mask]
  | .clc => [0x10#8, 0xFE#8]
  | .cli => [0x10#8, 0xEF#8]
  | .clv => [0x10#8, 0xFD#8]
  | .com op => op.bytes 0x71#8 0x61#8
  | .coma => [0x41#8]
  | .comb => [0x51#8]
  | .neg op => op.bytes 0x70#8 0x60#8
  | .nega => [0x40#8]
  | .negb => [0x50#8]
  | .bclr op mask => op.bytes 0x4D#8 0x1D#8 0x0D#8 ++ [mask]
  | .bita src => src.bytes 0x85#8 0x95#8 0xB5#8 0xA5#8
  | .bitb src => src.bytes 0xC5#8 0xD5#8 0xF5#8 0xE5#8
  | .bset op mask => op.bytes 0x4C#8 0x1C#8 0x0C#8 ++ [mask]
  | .cba => [0x18#8, 0x17#8]
  | .cmpa src => src.bytes 0x81#8 0x91#8 0xB1#8 0xA1#8
  | .cmpb src => src.bytes 0xC1#8 0xD1#8 0xF1#8 0xE1#8
  | .cpd src => src.bytes 0x8C#8 0x9C#8 0xBC#8 0xAC#8
  | .cps src => src.bytes 0x8F#8 0x9F#8 0xBF#8 0xAF#8
  | .cpx src => src.bytes 0x8E#8 0x9E#8 0xBE#8 0xAE#8
  | .cpy src => src.bytes 0x8D#8 0x9D#8 0xBD#8 0xAD#8
  | .tst op => op.bytes 0xF7#8 0xE7#8
  | .tsta => [0x97#8]
  | .tstb => [0xD7#8]
  | .brn rel => [0x21#8, rel]
  | .bra rel => [0x20#8, rel]
  | .bcc rel => [0x24#8, rel]
  | .bcs rel => [0x25#8, rel]
  | .beq rel => [0x27#8, rel]
  | .bne rel => [0x26#8, rel]
  | .bmi rel => [0x2B#8, rel]
  | .bpl rel => [0x2A#8, rel]
  | .bvs rel => [0x29#8, rel]
  | .bvc rel => [0x28#8, rel]
  | .bhs rel => [0x24#8, rel]
  | .bhi rel => [0x22#8, rel]
  | .bls rel => [0x23#8, rel]
  | .blo rel => [0x25#8, rel]
  | .bge rel => [0x2C#8, rel]
  | .bgt rel => [0x2E#8, rel]
  | .ble rel => [0x2F#8, rel]
  | .blt rel => [0x2D#8, rel]
  | .lbrn rel => [0x18#8, 0x21#8, hiByte rel, loByte rel]
  | .lbra rel => [0x18#8, 0x20#8, hiByte rel, loByte rel]
  | .lbcc rel => [0x18#8, 0x24#8, hiByte rel, loByte rel]
  | .lbcs rel => [0x18#8, 0x25#8, hiByte rel, loByte rel]
  | .lbeq rel => [0x18#8, 0x27#8, hiByte rel, loByte rel]
  | .lbne rel => [0x18#8, 0x26#8, hiByte rel, loByte rel]
  | .lbmi rel => [0x18#8, 0x2B#8, hiByte rel, loByte rel]
  | .lbpl rel => [0x18#8, 0x2A#8, hiByte rel, loByte rel]
  | .lbvs rel => [0x18#8, 0x29#8, hiByte rel, loByte rel]
  | .lbvc rel => [0x18#8, 0x28#8, hiByte rel, loByte rel]
  | .lbhs rel => [0x18#8, 0x24#8, hiByte rel, loByte rel]
  | .lbhi rel => [0x18#8, 0x22#8, hiByte rel, loByte rel]
  | .lbls rel => [0x18#8, 0x23#8, hiByte rel, loByte rel]
  | .lblo rel => [0x18#8, 0x25#8, hiByte rel, loByte rel]
  | .lbge rel => [0x18#8, 0x2C#8, hiByte rel, loByte rel]
  | .lbgt rel => [0x18#8, 0x2E#8, hiByte rel, loByte rel]
  | .lble rel => [0x18#8, 0x2F#8, hiByte rel, loByte rel]
  | .lblt rel => [0x18#8, 0x2D#8, hiByte rel, loByte rel]
  | .brset op mask rel => op.bytes 0x4E#8 0x1E#8 0x0E#8 ++ [mask, rel]
  | .jsr op => op.bytes 0x17#8 0x16#8 0x15#8
  | .rts => [0x3D#8]
  | .swi => [0x3F#8]

/-- The length in bytes. -/
def Instr.length (i : Instr) : Nat := (encode i).length

/-- The instruction that the decoder names for the bytes of `i`: the names that share an encoding collapse to the
one that opcode_table.json gives without `alias_of`, and ANDCC with one of three masks is CLC, CLI or CLV
(30_encoding.md R123, R124; log 11). -/
def Instr.canon : Instr → Instr
  | .asl op => .lsl op
  | .asla => .lsla
  | .aslb => .lslb
  | .asld => .lsld
  | .bhs rel => .bcc rel
  | .blo rel => .bcs rel
  | .lbhs rel => .lbcc rel
  | .lblo rel => .lbcs rel
  | .andcc mask =>
    if mask = 0xFE#8 then .clc else if mask = 0xEF#8 then .cli else if mask = 0xFD#8 then .clv else .andcc mask
  | .ldaa src => .ldaa src
  | .ldab src => .ldab src
  | .ldd src => .ldd src
  | .ldx src => .ldx src
  | .ldy src => .ldy src
  | .lds src => .lds src
  | .staa op => .staa op
  | .stab op => .stab op
  | .std op => .std op
  | .stx op => .stx op
  | .sty op => .sty op
  | .sts op => .sts op
  | .tab => .tab
  | .tba => .tba
  | .tap => .tap
  | .tpa => .tpa
  | .movb src dst => .movb src dst
  | .movw src dst => .movw src dst
  | .lsl op => .lsl op
  | .lsla => .lsla
  | .lslb => .lslb
  | .lsld => .lsld
  | .lsr op => .lsr op
  | .lsra => .lsra
  | .lsrb => .lsrb
  | .lsrd => .lsrd
  | .asr op => .asr op
  | .asra => .asra
  | .asrb => .asrb
  | .rol op => .rol op
  | .rola => .rola
  | .rolb => .rolb
  | .ror op => .ror op
  | .rora => .rora
  | .rorb => .rorb
  | .aba => .aba
  | .abx => .abx
  | .aby => .aby
  | .adda src => .adda src
  | .addb src => .addb src
  | .addd src => .addd src
  | .adca src => .adca src
  | .adcb src => .adcb src
  | .sba => .sba
  | .suba src => .suba src
  | .subb src => .subb src
  | .subd src => .subd src
  | .sbca src => .sbca src
  | .sbcb src => .sbcb src
  | .dec op => .dec op
  | .deca => .deca
  | .decb => .decb
  | .des => .des
  | .dex => .dex
  | .dey => .dey
  | .inc op => .inc op
  | .inca => .inca
  | .incb => .incb
  | .ins => .ins
  | .inx => .inx
  | .iny => .iny
  | .anda src => .anda src
  | .andb src => .andb src
  | .eora src => .eora src
  | .eorb src => .eorb src
  | .oraa src => .oraa src
  | .orab src => .orab src
  | .orcc mask => .orcc mask
  | .clc => .clc
  | .cli => .cli
  | .clv => .clv
  | .com op => .com op
  | .coma => .coma
  | .comb => .comb
  | .neg op => .neg op
  | .nega => .nega
  | .negb => .negb
  | .bclr op mask => .bclr op mask
  | .bita src => .bita src
  | .bitb src => .bitb src
  | .bset op mask => .bset op mask
  | .cba => .cba
  | .cmpa src => .cmpa src
  | .cmpb src => .cmpb src
  | .cpd src => .cpd src
  | .cps src => .cps src
  | .cpx src => .cpx src
  | .cpy src => .cpy src
  | .tst op => .tst op
  | .tsta => .tsta
  | .tstb => .tstb
  | .brn rel => .brn rel
  | .bra rel => .bra rel
  | .bcc rel => .bcc rel
  | .bcs rel => .bcs rel
  | .beq rel => .beq rel
  | .bne rel => .bne rel
  | .bmi rel => .bmi rel
  | .bpl rel => .bpl rel
  | .bvs rel => .bvs rel
  | .bvc rel => .bvc rel
  | .bhi rel => .bhi rel
  | .bls rel => .bls rel
  | .bge rel => .bge rel
  | .bgt rel => .bgt rel
  | .ble rel => .ble rel
  | .blt rel => .blt rel
  | .lbrn rel => .lbrn rel
  | .lbra rel => .lbra rel
  | .lbcc rel => .lbcc rel
  | .lbcs rel => .lbcs rel
  | .lbeq rel => .lbeq rel
  | .lbne rel => .lbne rel
  | .lbmi rel => .lbmi rel
  | .lbpl rel => .lbpl rel
  | .lbvs rel => .lbvs rel
  | .lbvc rel => .lbvc rel
  | .lbhi rel => .lbhi rel
  | .lbls rel => .lbls rel
  | .lbge rel => .lbge rel
  | .lbgt rel => .lbgt rel
  | .lble rel => .lble rel
  | .lblt rel => .lblt rel
  | .brset op mask rel => .brset op mask rel
  | .jsr op => .jsr op
  | .rts => .rts
  | .swi => .swi

/-! ## The decoder on a number, as opcode_table.json numbers bits -/

/-- The lowest `n` bytes of a number, the least significant first. -/
def littleBytes : Nat → Nat → List Byte
  | 0, _ => []
  | n + 1, w => BitVec.ofNat 8 w :: littleBytes n (w / 256)

/-- The six bytes of an instruction whose first `nbits` bits are those of `w`, the first byte in bits 7..0, the
rest zero. -/
def tableBytes (nbits w : Nat) : List Byte := littleBytes 6 (w % 2 ^ nbits)

/-- The instruction that the decoder reads from a number. -/
def decodeTableWord (nbits w : Nat) : Option Instr :=
  match decode (tableBytes nbits w) with
  | .instr i _ => some i
  | .more => none
  | .refused => none

end Sys2Proof
end

