-- ==== Sys2Proof/Config.lean ====
section
/-! DEFINITION. What a run fixes before it starts: the named parameters of 00_scope.md R7 and 10_state.md R35,
the entry address, and the free values for the flags that the spec leaves at `any`. -/

namespace Sys2Proof

/-- A block of consecutive addresses, both ends included, from `lo` upwards to `hi` modulo 2^16: a block may go on
from $FFFF at $0000 (20_memory.md R51). -/
structure AddrRange where
  lo : Word
  hi : Word
deriving DecidableEq, Repr

/-- The address lies in the block. -/
def AddrRange.holds (r : AddrRange) (a : Word) : Bool :=
  decide (a - r.lo ≤ r.hi - r.lo)

/-- ABXY_FLAGS (92_eei_decisions.md D15): what ABX and ABY do to H, N, Z, V, C. -/
inductive AbxyFlags where
  | any        -- the spec's default: five unspecified values
  | unchanged  -- what the silicon does
deriving DecidableEq, Repr

/-- INCDEC16_Z (92_eei_decisions.md D16): what DES, INS, DEY, INY do to Z. -/
inductive IncDec16Z where
  | any      -- the spec's default: an unspecified value
  | source   -- the marks of the handout's tables: DES, INS set Z; DEY, INY leave it
  | silicon  -- the reverse: DEY, INY set Z; DES, INS leave it
deriving DecidableEq, Repr

/-- The parameters of a run. No instruction changes them (10_state.md R35). -/
structure Params where
  /-- MEMMAP: the addresses that hold a readable and writable byte (20_memory.md R60). -/
  memMap : List AddrRange
  /-- The bytes that were loaded as part of an instruction; a store into one faults (20_memory.md R66;
  48_assembler_directives.md R412). ALLOW_SMC is decided false, so it is no parameter. -/
  code : List AddrRange
  /-- The launch bytes, which the load records gave: the program image, fixed at launch (20_memory.md R66;
  48_assembler_directives.md R411; log 5). No access reads it: it says what memory held at launch. Addresses strictly
  rising, as in memory. -/
  image : List Host.Cell
  /-- HALT_ADDRS: addresses at which a run counts as finished (70_reset_and_hazards.md R457). -/
  haltAddrs : List Word
  /-- ABXY_FLAGS. -/
  abxyFlags : AbxyFlags
  /-- INCDEC16_Z. -/
  incDec16Z : IncDec16Z
  /-- XBIT_STICKY: a CCR.X that is 0 stays 0 under TAP and ORCC (10_state.md R31). -/
  xbitSticky : Bool
deriving DecidableEq, Repr

/-- MEMMAP admits the address. -/
def Params.mapped (p : Params) (a : Word) : Bool := p.memMap.any (·.holds a)

/-- The address holds a byte that was loaded as part of an instruction. -/
def Params.isCode (p : Params) (a : Word) : Bool := p.code.any (·.holds a)

/-- The parameters in force at `State.reset`: the spec's defaults where 92_eei_decisions.md gives one.
DESIGN CHOICE (logs 4, 5): MEMMAP has no default there; here it is the whole address space, and nothing is loaded. -/
def Params.default : Params where
  memMap := [⟨0x0000#16, 0xFFFF#16⟩]
  code := []
  image := []
  haltAddrs := []
  abxyFlags := .any
  incDec16Z := .any
  xbitSticky := true

/-- ENTRY, the address the PC holds at launch: $4000 for both programs of the handout
(92_eei_decisions.md D8). DESIGN CHOICE (log 3): the spec leaves it open. -/
def Config.entry : Word := 0x4000#16

/-- The free values for flags that hold `any` after ABX, ABY, DES, INS, DEY, INY (92_eei_decisions.md D15, D16
and its closing note). It has no body: a claim holds whatever these values are. The argument is the number of
values drawn before (`State.drawn`), so that two draws need not agree. Log 9. -/
opaque Config.freeFlag : Nat → Bool

end Sys2Proof
end

