-- ==== Sys2Proof/Machine/State.lean ====
section
/-! DEFINITION. The machine's state as plain data (10_state.md R20 to R36), the reasons a step can stop, and the
state after reset. -/

namespace Sys2Proof.Machine

open Sys2Proof

/-- The condition code register, one Bool per bit (10_state.md R27). `Ccr.toByte` and `Ccr.ofByte` in
Machine/Flags.lean fix the bit positions. -/
structure Ccr where
  s : Bool  -- bit 7, STOP disable (R31)
  x : Bool  -- bit 6, XIRQ mask (R31)
  h : Bool  -- bit 5, half carry (R29)
  i : Bool  -- bit 4, interrupt mask (R30)
  n : Bool  -- bit 3, negative (R28)
  z : Bool  -- bit 2, zero (R28)
  v : Bool  -- bit 1, overflow (R28)
  c : Bool  -- bit 0, carry or borrow (R28)
deriving DecidableEq, Repr

/-- Memory: the bytes that hold a value, addresses strictly rising and below 65,536 (`Memory.wf` in
Machine/Ops.lean). A byte that is not listed holds no value (10_state.md R33, R36; 20_memory.md R60). -/
abbrev Memory := List Host.Cell

/-- The state of the machine. D is no field: it is A:B (10_state.md R22). -/
structure State where
  /-- Accumulator A (R20, R21). -/
  a : Byte
  /-- Accumulator B (R20, R21). -/
  b : Byte
  /-- Index register X (R23). -/
  x : Word
  /-- Index register Y (R23). -/
  y : Word
  /-- Stack pointer (R24). -/
  sp : Word
  /-- Program counter (R25). -/
  pc : Word
  /-- Condition code register (R27). -/
  ccr : Ccr
  /-- The one memory (R33). -/
  mem : Memory
  /-- The parameters of the run (R35); no instruction changes them. -/
  params : Params
  /-- The MODEL's own field: SWI has ended the run (60_exceptions.md R420, R425; log 8). -/
  halted : Bool
  /-- The MODEL's own field: how many free flag values have been drawn (log 9). -/
  drawn : Nat
deriving DecidableEq, Repr

/-- Why the machine stops with a fault. All of these are outcomes of the spec's model, not events of the chip
(60_exceptions.md R420, R437): the chip does something there that no source gives, so stopping is safe. -/
inductive Fault where
  /-- Raised by a fetch, read or write of an address outside MEMMAP (20_memory.md R60). Safe. -/
  | unmapped (addr : Word)
  /-- Raised by a fetch or read of a mapped byte that nothing has written or loaded (20_memory.md R60). Safe. -/
  | unwritten (addr : Word)
  /-- Raised by a write to a byte that was loaded as part of an instruction (20_memory.md R66). Safe. -/
  | storeToCode (addr : Word)
  /-- Raised by `step` when the run is over: after SWI, or at a halt address (60_exceptions.md R420;
  70_reset_and_hazards.md R457). Safe. -/
  | runOver
deriving DecidableEq, Repr

/-- Why the machine refuses. -/
inductive Refusal where
  /-- Raised by an arm of `exec` whose instruction has no meaning in the model yet. Safe. -/
  | notModelled (mnemonic : String)
  /-- Raised by `step`, and by the meaning of an instruction with an excluded operand form: the spec gives these
  bytes no meaning (30_encoding.md R131). Safe. -/
  | noInstruction (bytes : List Byte)
deriving DecidableEq, Repr

/-- What one instruction or one step answers. -/
abbrev Out := Host.Outcome State Fault Refusal

/-- The CCR at reset. PRESUMED (log 2): S, X and I are 1, as 10_state.md R30, R31, R36 tell of the chip's reset.
DESIGN CHOICE (log 1): the other flags, which the spec leaves without a value, are 0. -/
def Ccr.reset : Ccr where
  s := true
  x := true
  h := false
  i := true
  n := false
  z := false
  v := false
  c := false

/-- The machine right after reset: the spec's launch (10_state.md R36; 70_reset_and_hazards.md R451) with no
program loaded. DESIGN CHOICE (logs 1, 3): the spec states no value for A, B, X, Y, SP and leaves ENTRY open. -/
def State.reset : State where
  a := 0x00#8
  b := 0x00#8
  x := 0x0000#16
  y := 0x0000#16
  sp := 0x0000#16
  pc := Config.entry
  ccr := Ccr.reset
  mem := []
  params := Params.default
  halted := false
  drawn := 0

end Sys2Proof.Machine
end

