-- ==== Sys2Proof/Machine/Flags.lean ====
section
/-! DEFINITION. The CCR as a byte, the arithmetic laws, the flags of shifts and of the one-operand instructions, and
the conditions of the branches (00_scope.md R11 to R15; 10_state.md R27 to R31). -/

namespace Sys2Proof.Machine

open Sys2Proof

/-! ## The CCR as a byte -/

/-- The layout of 10_state.md R27: S X H I N Z V C, bits 7 to 0. PRESUMED (log 15): the spec takes it from general
knowledge. -/
def Ccr.toByte (f : Ccr) : Byte :=
  BitVec.ofBool f.s ++ BitVec.ofBool f.x ++ BitVec.ofBool f.h ++ BitVec.ofBool f.i ++
  BitVec.ofBool f.n ++ BitVec.ofBool f.z ++ BitVec.ofBool f.v ++ BitVec.ofBool f.c

/-- The eight flags in a byte (10_state.md R27). -/
def Ccr.ofByte (b : Byte) : Ccr where
  s := b.getLsbD 7
  x := b.getLsbD 6
  h := b.getLsbD 5
  i := b.getLsbD 4
  n := b.getLsbD 3
  z := b.getLsbD 2
  v := b.getLsbD 1
  c := b.getLsbD 0

/-- TAP: all eight bits are copied; with XBIT_STICKY a clear X bit stays clear (40_data_transfer.md R154; log 10). -/
def Ccr.transfer (sticky : Bool) (f : Ccr) (v : Byte) : Ccr :=
  let new := Ccr.ofByte v
  if sticky then { new with x := new.x && f.x } else new

/-- ANDCC (43_logic_bit.md R262). -/
def Ccr.and (f : Ccr) (mask : Byte) : Ccr := Ccr.ofByte (f.toByte &&& mask)

/-- ORCC; with XBIT_STICKY the X bit keeps its value (43_logic_bit.md R267; log 10). -/
def Ccr.or (sticky : Bool) (f : Ccr) (mask : Byte) : Ccr :=
  let new := Ccr.ofByte (f.toByte ||| mask)
  if sticky then { new with x := f.x } else new

/-! ## N and Z of a result (00_scope.md R11) -/

/-- `NZ8(r)`. -/
def Ccr.nz8 (f : Ccr) (r : Byte) : Ccr := { f with n := r.msb, z := decide (r = 0x00#8) }

/-- `NZ16(r)`. -/
def Ccr.nz16 (f : Ccr) (r : Word) : Ccr := { f with n := r.msb, z := decide (r = 0x0000#16) }

/-- N and Z from an 8-bit value, V cleared: loads, stores, TAB, TBA, logic and bit instructions
(40_data_transfer.md R158; 43_logic_bit.md R281). -/
def Ccr.logic8 (f : Ccr) (r : Byte) : Ccr := { f.nz8 r with v := false }

/-- N and Z from a 16-bit value, V cleared (40_data_transfer.md R158). -/
def Ccr.logic16 (f : Ccr) (r : Word) : Ccr := { f.nz16 r with v := false }

/-- The flags of TST, TSTA, TSTB (44_data_test.md R307). -/
def Ccr.test (f : Ccr) (v : Byte) : Ccr := { f.nz8 v with v := false, c := false }

/-! ## The arithmetic laws: the result, and the flags from the old ones -/

/-- `ADD8(a, b, cin)` (00_scope.md R12). -/
def add8 (a b : Byte) (cin : Bool) (f : Ccr) : Byte × Ccr :=
  let t := a.toNat + b.toNat + cin.toNat
  let r : Byte := BitVec.ofNat 8 t
  (r, { f.nz8 r with
    h := decide (a.toNat % 16 + b.toNat % 16 + cin.toNat > 15)
    c := decide (t > 255)
    v := a.msb == b.msb && r.msb != a.msb })

/-- `SUB8(a, b, bin)` (00_scope.md R13). -/
def sub8 (a b : Byte) (bin : Bool) (f : Ccr) : Byte × Ccr :=
  let r : Byte := BitVec.ofInt 8 ((a.toNat : Int) - b.toNat - bin.toNat)
  (r, { f.nz8 r with
    c := decide (a.toNat < b.toNat + bin.toNat)
    v := a.msb != b.msb && r.msb != a.msb })

/-- `ADD16(a, b)` (00_scope.md R14). -/
def add16 (a b : Word) (f : Ccr) : Word × Ccr :=
  let t := a.toNat + b.toNat
  let r : Word := BitVec.ofNat 16 t
  (r, { f.nz16 r with
    c := decide (t > 65535)
    v := a.msb == b.msb && r.msb != a.msb })

/-- `SUB16(a, b)` (00_scope.md R15). -/
def sub16 (a b : Word) (f : Ccr) : Word × Ccr :=
  let r : Word := BitVec.ofInt 16 ((a.toNat : Int) - b.toNat)
  (r, { f.nz16 r with
    c := decide (a.toNat < b.toNat)
    v := a.msb != b.msb && r.msb != a.msb })

/-! ## Shifts and rotates by one place (41_shift_rotate.md R201)

UNVERIFIED (log 15): the direction of every bit and the V formula are the spec's general knowledge. -/

/-- N, Z from the result, C the bit shifted out, V = N exclusive-or C. -/
def Ccr.shift8 (f : Ccr) (r : Byte) (out : Bool) : Ccr := { f.nz8 r with c := out, v := r.msb ^^ out }

/-- The same on 16 bits. -/
def Ccr.shift16 (f : Ccr) (r : Word) (out : Bool) : Ccr := { f.nz16 r with c := out, v := r.msb ^^ out }

/-- `r <- m[6:0] : 0`, out `m[7]`: LSL, ASL (R180, R188). -/
def lsl8 (m : Byte) (f : Ccr) : Byte × Ccr :=
  let r : Byte := m.extractLsb' 0 7 ++ 0#1
  (r, f.shift8 r (m.getLsbD 7))

/-- `r <- 0 : m[7:1]`, out `m[0]`: LSR (R184). -/
def lsr8 (m : Byte) (f : Ccr) : Byte × Ccr :=
  let r : Byte := 0#1 ++ m.extractLsb' 1 7
  (r, f.shift8 r (m.getLsbD 0))

/-- `r <- m[7] : m[7:1]`, out `m[0]`: ASR (R192). -/
def asr8 (m : Byte) (f : Ccr) : Byte × Ccr :=
  let r : Byte := m.extractLsb' 7 1 ++ m.extractLsb' 1 7
  (r, f.shift8 r (m.getLsbD 0))

/-- `r <- m[6:0] : C`, out `m[7]`: ROL (R195). -/
def rol8 (m : Byte) (f : Ccr) : Byte × Ccr :=
  let r : Byte := m.extractLsb' 0 7 ++ BitVec.ofBool f.c
  (r, f.shift8 r (m.getLsbD 7))

/-- `r <- C : m[7:1]`, out `m[0]`: ROR (R198). -/
def ror8 (m : Byte) (f : Ccr) : Byte × Ccr :=
  let r : Byte := BitVec.ofBool f.c ++ m.extractLsb' 1 7
  (r, f.shift8 r (m.getLsbD 0))

/-- `r <- D[14:0] : 0`, out `D[15]`: LSLD, ASLD (R183, R191). -/
def lsl16 (m : Word) (f : Ccr) : Word × Ccr :=
  let r : Word := m.extractLsb' 0 15 ++ 0#1
  (r, f.shift16 r (m.getLsbD 15))

/-- `r <- 0 : D[15:1]`, out `D[0]`: LSRD (R187). -/
def lsr16 (m : Word) (f : Ccr) : Word × Ccr :=
  let r : Word := 0#1 ++ m.extractLsb' 1 15
  (r, f.shift16 r (m.getLsbD 0))

/-! ## The other one-operand instructions -/

/-- DEC: V when the operand was $80; C is not changed (42_arithmetic.md R224). -/
def dec8 (m : Byte) (f : Ccr) : Byte × Ccr :=
  let r := m - 1#8
  (r, { f.nz8 r with v := decide (m = 0x80#8) })

/-- INC: V when the operand was $7F; C is not changed (42_arithmetic.md R230). -/
def inc8 (m : Byte) (f : Ccr) : Byte × Ccr :=
  let r := m + 1#8
  (r, { f.nz8 r with v := decide (m = 0x7F#8) })

/-- COM: V cleared, C set (43_logic_bit.md R271). -/
def com8 (m : Byte) (f : Ccr) : Byte × Ccr :=
  let r := 0xFF#8 - m
  (r, { f.nz8 r with v := false, c := true })

/-- NEG: V when the result is $80, C when it is not $00 (43_logic_bit.md R274). -/
def neg8 (m : Byte) (f : Ccr) : Byte × Ccr :=
  let r := 0x00#8 - m
  (r, { f.nz8 r with v := decide (r = 0x80#8), c := decide (r ≠ 0x00#8) })

/-- The flags of a logic result beside the result (43_logic_bit.md R281). -/
def logicResult (r : Byte) (f : Ccr) : Byte × Ccr := (r, f.logic8 r)

/-! ## Branch conditions that read more than one flag (45_branch.md R332, R333, R335 to R338) -/

/-- BHI: `(C | Z) = 0`. -/
def Ccr.hi (f : Ccr) : Bool := !(f.c || f.z)

/-- BLS: `(C | Z) = 1`. -/
def Ccr.ls (f : Ccr) : Bool := f.c || f.z

/-- BGE: `(N ^ V) = 0`. -/
def Ccr.ge (f : Ccr) : Bool := !(f.n ^^ f.v)

/-- BGT: `(Z | (N ^ V)) = 0`. -/
def Ccr.gt (f : Ccr) : Bool := !(f.z || (f.n ^^ f.v))

/-- BLE: `(Z | (N ^ V)) = 1`. -/
def Ccr.le (f : Ccr) : Bool := f.z || (f.n ^^ f.v)

/-- BLT: `(N ^ V) = 1`. -/
def Ccr.lt (f : Ccr) : Bool := f.n ^^ f.v

end Sys2Proof.Machine
end

