-- ==== Sys2Proof/Machine/Ops.lean ====
section
/-! DEFINITION. The named operations on registers and memory, the free flags, SWI, and fetching an instruction. -/

namespace Sys2Proof.Machine

open Sys2Proof

/-! ## Registers (10_state.md R20 to R27) -/

def State.setA (s : State) (v : Byte) : State := { s with a := v }
def State.setB (s : State) (v : Byte) : State := { s with b := v }
def State.setX (s : State) (v : Word) : State := { s with x := v }
def State.setY (s : State) (v : Word) : State := { s with y := v }
def State.setSp (s : State) (v : Word) : State := { s with sp := v }
def State.setPc (s : State) (v : Word) : State := { s with pc := v }
def State.setCcr (s : State) (f : Ccr) : State := { s with ccr := f }
def State.setMem (s : State) (m : Memory) : State := { s with mem := m }

/-- D is A:B (10_state.md R22). -/
def State.d (s : State) : Word := join s.a s.b

/-- A write of D writes A and B (10_state.md R22). -/
def State.setD (s : State) (v : Word) : State := (s.setA (hiByte v)).setB (loByte v)

/-- Write a result to A, and the flags. -/
def State.putA (s : State) (r : Byte × Ccr) : State := (s.setA r.1).setCcr r.2

/-- Write a result to B, and the flags. -/
def State.putB (s : State) (r : Byte × Ccr) : State := (s.setB r.1).setCcr r.2

/-- Write a result to D, and the flags. -/
def State.putD (s : State) (r : Word × Ccr) : State := (s.setD r.1).setCcr r.2

/-- `next`: the address of the byte after the instruction, modulo 2^16 (00_scope.md R9; 10_state.md R25). -/
def State.next (s : State) (i : Instr) : Word := s.pc + BitVec.ofNat 16 i.length

/-! ## Memory (10_state.md R33; 20_memory.md R50 to R62) -/

/-- The byte that memory holds at an address, if any. -/
def Memory.get : Memory → Word → Option Byte
  | [], _ => none
  | (k, v) :: m, a => if k = a.toNat then some v else Memory.get m a

/-- Store one byte; the list stays sorted. -/
def Memory.set : Memory → Word → Byte → Memory
  | [], a, v => [(a.toNat, v)]
  | (k, w) :: m, a, v =>
    if a.toNat < k then (a.toNat, v) :: (k, w) :: m
    else if a.toNat = k then (k, v) :: m
    else (k, w) :: Memory.set m a v

/-- Store bytes at ascending addresses, modulo 2^16 (20_memory.md R51). -/
def Memory.setAll : Memory → Word → List Byte → Memory
  | m, _, [] => m
  | m, a, v :: vs => Memory.setAll (Memory.set m a v) (a + 1#16) vs

/-- Every address is at least `lo` and below 65,536, and addresses rise strictly. -/
def Memory.wfFrom : Nat → Memory → Bool
  | _, [] => true
  | lo, (k, _) :: m => decide (lo ≤ k) && decide (k < 65536) && Memory.wfFrom (k + 1) m

/-- The canonical form. A byte that is not listed holds no value, so no entry is redundant. -/
def Memory.wf (m : Memory) : Bool := Memory.wfFrom 0 m

/-- `MemRead(a, 1)`: a byte outside MEMMAP, or one that nothing has written, faults (20_memory.md R60). -/
def State.readByte (s : State) (a : Word) : Except Fault Byte :=
  if s.params.mapped a then
    match Memory.get s.mem a with
    | some v => .ok v
    | none => .error (.unwritten a)
  else .error (.unmapped a)

/-- `MemRead(a, 2)`: the high byte at `a`, read first, the low byte at `a + 1` (20_memory.md R51, R53, R59). -/
def State.readWord (s : State) (a : Word) : Except Fault Word :=
  match s.readByte a with
  | .error e => .error e
  | .ok hi =>
    match s.readByte (a + 1#16) with
    | .error e => .error e
    | .ok lo => .ok (join hi lo)

/-- `MemWrite(a, 1, v)`: a byte outside MEMMAP faults, and so does one loaded as part of an instruction
(20_memory.md R60, R66). -/
def State.writeByte (s : State) (a : Word) (v : Byte) : Except Fault State :=
  if s.params.mapped a then
    if s.params.isCode a then .error (.storeToCode a) else .ok (s.setMem (Memory.set s.mem a v))
  else .error (.unmapped a)

/-- `MemWrite(a, 2, v)`: the high byte to `a`, then the low byte to `a + 1` (20_memory.md R51, R53, R59). -/
def State.writeWord (s : State) (a : Word) (v : Word) : Except Fault State :=
  match s.writeByte a (hiByte v) with
  | .error e => .error e
  | .ok t => t.writeByte (a + 1#16) (loByte v)

/-! ## Flags that the spec leaves at `any` (92_eei_decisions.md D15, D16; log 9) -/

/-- The free value `k` places after those drawn so far. -/
def State.freeFlag (s : State) (k : Nat) : Bool := Config.freeFlag (s.drawn + k)

/-- H, N, Z, V, C after ABX and ABY, by ABXY_FLAGS (42_arithmetic.md R211, R212). -/
def State.abxyFlags (s : State) : State :=
  match s.params.abxyFlags with
  | .unchanged => s
  | .any =>
    { s with
      ccr := { s.ccr with
        h := s.freeFlag 0
        n := s.freeFlag 1
        z := s.freeFlag 2
        v := s.freeFlag 3
        c := s.freeFlag 4 }
      drawn := s.drawn + 5 }

/-- Z takes one free value. -/
def State.freeZ (s : State) : State :=
  { s with ccr := { s.ccr with z := s.freeFlag 0 }, drawn := s.drawn + 1 }

/-- Z is set from a 16-bit result; no other flag changes (42_arithmetic.md R228, R234). -/
def State.setZ16 (s : State) (r : Word) : State := s.setCcr { s.ccr with z := decide (r = 0x0000#16) }

/-- Z after DES and INS, by INCDEC16_Z (42_arithmetic.md R227, R233). -/
def State.zAfterSp (s : State) (r : Word) : State :=
  match s.params.incDec16Z with
  | .any => s.freeZ
  | .source => s.setZ16 r
  | .silicon => s

/-- Z after DEY and INY, by INCDEC16_Z (42_arithmetic.md R229, R235). -/
def State.zAfterY (s : State) (r : Word) : State :=
  match s.params.incDec16Z with
  | .any => s.freeZ
  | .source => s
  | .silicon => s.setZ16 r

/-! ## Answers -/

/-- An access that failed ends the step in its fault; else the step goes on. -/
def orFault {α : Type} (r : Except Fault α) (k : α → Out) : Out :=
  match r with
  | .ok v => k v
  | .error e => .fault e

/-- The operand forms that a rule excludes are refused (30_encoding.md R131; log 12). -/
def admitted (i : Instr) (o : Out) : Out :=
  if i.wellFormed then o else .refused (.noInstruction (encode i))

/-! ## The one exception -/

/-- SWI: the run ends with every register, flag and memory byte as it was and the pc at the SWI byte; nothing is
saved, no mask changes, no vector is read (60_exceptions.md R421, R425). The spec has no return from it (R429).
DESIGN CHOICE (log 8): the outcome halt(SWI) is a next state with the mark `halted`. -/
def State.raiseSwi (s : State) : State := { s with halted := true }

/-- The run is over: after SWI, or at a halt address (60_exceptions.md R420; 70_reset_and_hazards.md R457). -/
def State.over (s : State) : Bool := s.halted || s.params.haltAddrs.contains s.pc

/-! ## Fetching an instruction (20_memory.md R66, R67) -/

/-- The fetch of one byte: `MemRead(addr, 1)`, from the one memory that loads and stores reach (10_state.md R33;
20_memory.md R50, R67). A byte loaded as part of an instruction is still its launch byte, since no store changes it
(R66; log 5). -/
def State.fetchByte (s : State) (a : Word) : Except Fault Byte := s.readByte a

/-- What a fetch gives. -/
inductive Fetched where
  | instr (i : Instr)
  | fault (e : Fault)
  | refused (bytes : List Byte)
deriving DecidableEq, Repr

/-- Fetch bytes at ascending addresses after those already read, until they are an instruction. A fault of a fetch
comes before a refusal (60_exceptions.md R426). The fuel does not run out: no instruction has more than six bytes
(30_encoding.md R80), and a refused MOV form no more than eight. -/
def State.fetchMore (s : State) : Nat → List Byte → Fetched
  | 0, bytes => .refused bytes
  | n + 1, bytes =>
    match s.fetchByte (s.pc + BitVec.ofNat 16 bytes.length) with
    | .error e => .fault e
    | .ok b =>
      match decode (bytes ++ [b]) with
      | .instr i _ => .instr i
      | .more => s.fetchMore n (bytes ++ [b])
      | .refused => .refused (bytes ++ [b])

/-- Fetch the instruction at the pc. -/
def State.fetch (s : State) : Fetched := s.fetchMore 8 []

/-! ## Placing bytes (the loader's side of the memory) -/

/-- Load bytes at ascending addresses from `a`, whatever was there: into memory, and into the record of the launch
bytes. -/
def State.place (s : State) (a : Word) (bytes : List Byte) : State :=
  { s with
    mem := Memory.setAll s.mem a bytes
    params := { s.params with image := Memory.setAll s.params.image a bytes } }

/-- MEMMAP with `n` addresses from `a` added, where it lacks them. -/
def mapFrom : Params → Nat → Word → Params
  | p, 0, _ => p
  | p, n + 1, a => mapFrom (if p.mapped a then p else { p with memMap := ⟨a, a⟩ :: p.memMap }) n (a + 1#16)

/-- Make ready to run the bytes that stand at the pc: their addresses are in MEMMAP, the run is not over. -/
def State.ready (s : State) (n : Nat) : State :=
  let p := mapFrom s.params n s.pc
  { s with params := { p with haltAddrs := p.haltAddrs.filter (· != s.pc) }, halted := false }

end Sys2Proof.Machine
end

