-- ==== Sys2Proof/Machine/Operands.lean ====
section
/-! DEFINITION. Effective addresses and operands (30_encoding.md R84 to R112), and the shapes that the meanings
share. Each function that evaluates an address gives the state after it, since an auto form steps its base. -/

namespace Sys2Proof.Machine

open Sys2Proof

/-! ## Indexed addressing -/

/-- `base(rr)`; the PC as a base is `next` (30_encoding.md R100, R108). -/
def State.base (s : State) (next : Word) : BaseReg → Word
  | .x => s.x
  | .y => s.y
  | .sp => s.sp
  | .pc => next

/-- The register of an auto form. -/
def State.auto (s : State) : AutoReg → Word
  | .x => s.x
  | .y => s.y
  | .sp => s.sp

/-- Write the register of an auto form. -/
def State.setAuto (s : State) (r : AutoReg) (v : Word) : State :=
  match r with
  | .x => s.setX v
  | .y => s.setY v
  | .sp => s.setSp v

/-- `adj`: `u(nnnn) + 1` when `nnnn[3] = 0`, else `u(nnnn) - 16` (30_encoding.md R105). -/
def autoAdj (n : BitVec 4) : Int := if n.getLsbD 3 then (n.toNat : Int) - 16 else (n.toNat : Int) + 1

/-- The accumulator offset; A and B are unsigned (30_encoding.md R106). -/
def State.accOffset (s : State) : AccOffset → Word
  | .a => s.a.setWidth 16
  | .b => s.b.setWidth 16
  | .d => s.d

/-- The effective address of an indexed operand, and the state after it (30_encoding.md R101 to R108). -/
def IdxForm.ea (f : IdxForm) (next : Word) (s : State) : Except Fault (Word × State) :=
  match f with
  | .off5 r n => .ok (s.base next r + n.signExtend 16, s)
  | .off9 r n => .ok (s.base next r + n.signExtend 16, s)
  | .off16 r n => .ok (s.base next r + n, s)
  | .ind16 r n =>
    match s.readWord (s.base next r + n) with
    | .ok p => .ok (p, s)
    | .error e => .error e
  | .auto r .pre n =>
    let new := s.auto r + BitVec.ofInt 16 (autoAdj n)
    .ok (new, s.setAuto r new)
  | .auto r .post n => .ok (s.auto r, s.setAuto r (s.auto r + BitVec.ofInt 16 (autoAdj n)))
  | .acc r o => .ok (s.base next r + s.accOffset o, s)
  | .indD r =>
    match s.readWord (s.base next r + s.d) with
    | .ok p => .ok (p, s)
    | .error e => .error e

/-! ## Operands of the formats -/

/-- A direct address: `$00 : dd` (30_encoding.md R86). -/
def directEa (dd : Byte) : Word := join 0x00#8 dd

/-- `EA()` (30_encoding.md R109). -/
def MemOp.ea (op : MemOp) (next : Word) (s : State) : Except Fault (Word × State) :=
  match op with
  | .dir d => .ok (directEa d, s)
  | .ext a => .ok (a, s)
  | .idx f => IdxForm.ea f next s

/-- `EA()` (30_encoding.md R109). -/
def RmwOp.ea (op : RmwOp) (next : Word) (s : State) : Except Fault (Word × State) :=
  match op with
  | .ext a => .ok (a, s)
  | .idx f => IdxForm.ea f next s

/-- `EA_dst()` of a move. -/
def MovDst.ea (op : MovDst) (next : Word) (s : State) : Except Fault (Word × State) :=
  match op with
  | .ext a => .ok (a, s)
  | .idx f => IdxForm.ea f next s

/-- Read the byte at an effective address. -/
def read8At (r : Except Fault (Word × State)) : Except Fault (Byte × State) :=
  match r with
  | .error e => .error e
  | .ok (ea, t) =>
    match t.readByte ea with
    | .ok v => .ok (v, t)
    | .error e => .error e

/-- Read the two bytes at an effective address. -/
def read16At (r : Except Fault (Word × State)) : Except Fault (Word × State) :=
  match r with
  | .error e => .error e
  | .ok (ea, t) =>
    match t.readWord ea with
    | .ok v => .ok (v, t)
    | .error e => .error e

/-- `opr8()`, and the state after it (30_encoding.md R110). -/
def Src8.read (src : Src8) (next : Word) (s : State) : Except Fault (Byte × State) :=
  match src with
  | .imm v => .ok (v, s)
  | .dir d => read8At (.ok (directEa d, s))
  | .ext a => read8At (.ok (a, s))
  | .idx f => read8At (IdxForm.ea f next s)

/-- `opr16()`, and the state after it (30_encoding.md R111). -/
def Src16.read (src : Src16) (next : Word) (s : State) : Except Fault (Word × State) :=
  match src with
  | .imm v => .ok (v, s)
  | .dir d => read16At (.ok (directEa d, s))
  | .ext a => read16At (.ok (a, s))
  | .idx f => read16At (IdxForm.ea f next s)

/-- `opr8()` of TST (30_encoding.md R110). -/
def RmwOp.read (op : RmwOp) (next : Word) (s : State) : Except Fault (Byte × State) :=
  read8At (RmwOp.ea op next s)

/-- The source of MOVB (40_data_transfer.md R156). -/
def MovSrc8.read (src : MovSrc8) (next : Word) (s : State) : Except Fault (Byte × State) :=
  match src with
  | .imm v => .ok (v, s)
  | .ext a => read8At (.ok (a, s))
  | .idx f => read8At (IdxForm.ea f next s)

/-- The source of MOVW (40_data_transfer.md R157). -/
def MovSrc16.read (src : MovSrc16) (next : Word) (s : State) : Except Fault (Word × State) :=
  match src with
  | .imm v => .ok (v, s)
  | .ext a => read16At (.ok (a, s))
  | .idx f => read16At (IdxForm.ea f next s)

/-! ## The shapes of the meanings -/

/-- An inherent instruction: registers and flags change, the pc goes to `next` (30_encoding.md R84). -/
def inherent (i : Instr) (f : State → State) (s : State) : Out := .next ((f s).setPc (s.next i))

/-- An instruction with an 8-bit source operand. `f` gives the registers and flags from the operand and the state
after its address was evaluated. -/
def withSrc8 (i : Instr) (src : Src8) (f : Byte → State → State) (s : State) : Out :=
  orFault (Src8.read src (s.next i) s) fun (v, t) => .next ((f v t).setPc (s.next i))

/-- An instruction with a 16-bit source operand. -/
def withSrc16 (i : Instr) (src : Src16) (f : Word → State → State) (s : State) : Out :=
  orFault (Src16.read src (s.next i) s) fun (v, t) => .next ((f v t).setPc (s.next i))

/-- Store an 8-bit register, with the flags of the stored value (40_data_transfer.md R146). -/
def store8 (i : Instr) (op : MemOp) (reg : State → Byte) (s : State) : Out :=
  orFault (MemOp.ea op (s.next i) s) fun (ea, t) =>
    orFault (t.writeByte ea (reg t)) fun u => .next ((u.setCcr (u.ccr.logic8 (reg t))).setPc (s.next i))

/-- Store a 16-bit register, with the flags of the stored value (40_data_transfer.md R148). -/
def store16 (i : Instr) (op : MemOp) (reg : State → Word) (s : State) : Out :=
  orFault (MemOp.ea op (s.next i) s) fun (ea, t) =>
    orFault (t.writeWord ea (reg t)) fun u => .next ((u.setCcr (u.ccr.logic16 (reg t))).setPc (s.next i))

/-- Read, change and write back the byte at an effective address that is evaluated once (30_encoding.md R112). -/
def modifyAt (i : Instr) (r : Except Fault (Word × State)) (f : Byte → Ccr → Byte × Ccr) (s : State) : Out :=
  orFault r fun (ea, t) =>
    orFault (t.readByte ea) fun m =>
      orFault (t.writeByte ea (f m t.ccr).1) fun u => .next ((u.setCcr (f m t.ccr).2).setPc (s.next i))

/-- A read-modify-write instruction. -/
def modify (i : Instr) (op : RmwOp) (f : Byte → Ccr → Byte × Ccr) (s : State) : Out :=
  modifyAt i (RmwOp.ea op (s.next i) s) f s

/-- BSET and BCLR (43_logic_bit.md R277, R280). -/
def modifyBits (i : Instr) (op : MemOp) (f : Byte → Ccr → Byte × Ccr) (s : State) : Out :=
  modifyAt i (MemOp.ea op (s.next i) s) f s

/-- A branch: to `next + offset` when taken, else to `next` (45_branch.md R320). -/
def branch (i : Instr) (taken : Bool) (offset : Word) (s : State) : Out :=
  .next (s.setPc (if taken then s.next i + offset else s.next i))

/-- The offset of a short branch (30_encoding.md R88). -/
def shortOffset (rel : Byte) : Word := rel.signExtend 16

end Sys2Proof.Machine
end

