-- ==== Sys2Proof/Machine/Arith.lean ====
section
/-! DEFINITION. Addition, subtraction, decrement, increment (42_arithmetic.md). -/

namespace Sys2Proof.Machine

open Sys2Proof

/-! ## Addition -/

/-- ABA: A + B to A (R210). -/
def execAba (s : State) : Out := inherent .aba (fun t => t.putA (add8 t.a t.b false t.ccr)) s

/-- ABX: X + B, B unsigned; the flags by ABXY_FLAGS (R211). -/
def execAbx (s : State) : Out := inherent .abx (fun t => (t.setX (t.x + t.b.setWidth 16)).abxyFlags) s

/-- ABY: Y + B, B unsigned; the flags by ABXY_FLAGS (R212). -/
def execAby (s : State) : Out := inherent .aby (fun t => (t.setY (t.y + t.b.setWidth 16)).abxyFlags) s

/-- ADDA (R213). -/
def execAdda (src : Src8) (s : State) : Out :=
  withSrc8 (.adda src) src (fun v t => t.putA (add8 t.a v false t.ccr)) s

/-- ADDB (R214). -/
def execAddb (src : Src8) (s : State) : Out :=
  withSrc8 (.addb src) src (fun v t => t.putB (add8 t.b v false t.ccr)) s

/-- ADDD (R215). -/
def execAddd (src : Src16) (s : State) : Out := withSrc16 (.addd src) src (fun v t => t.putD (add16 t.d v t.ccr)) s

/-- ADCA: the old C is added (R216). -/
def execAdca (src : Src8) (s : State) : Out :=
  withSrc8 (.adca src) src (fun v t => t.putA (add8 t.a v t.ccr.c t.ccr)) s

/-- ADCB: the old C is added (R217). -/
def execAdcb (src : Src8) (s : State) : Out :=
  withSrc8 (.adcb src) src (fun v t => t.putB (add8 t.b v t.ccr.c t.ccr)) s

/-! ## Subtraction -/

/-- SBA: A - B to A (R218). -/
def execSba (s : State) : Out := inherent .sba (fun t => t.putA (sub8 t.a t.b false t.ccr)) s

/-- SUBA (R219). -/
def execSuba (src : Src8) (s : State) : Out :=
  withSrc8 (.suba src) src (fun v t => t.putA (sub8 t.a v false t.ccr)) s

/-- SUBB (R220). -/
def execSubb (src : Src8) (s : State) : Out :=
  withSrc8 (.subb src) src (fun v t => t.putB (sub8 t.b v false t.ccr)) s

/-- SUBD (R221). -/
def execSubd (src : Src16) (s : State) : Out := withSrc16 (.subd src) src (fun v t => t.putD (sub16 t.d v t.ccr)) s

/-- SBCA: the old C is subtracted (R222). -/
def execSbca (src : Src8) (s : State) : Out :=
  withSrc8 (.sbca src) src (fun v t => t.putA (sub8 t.a v t.ccr.c t.ccr)) s

/-- SBCB: the old C is subtracted (R223). -/
def execSbcb (src : Src8) (s : State) : Out :=
  withSrc8 (.sbcb src) src (fun v t => t.putB (sub8 t.b v t.ccr.c t.ccr)) s

/-! ## Decrement -/

/-- DEC memory (R224). -/
def execDec (op : RmwOp) (s : State) : Out := modify (.dec op) op dec8 s

/-- DECA (R225). -/
def execDeca (s : State) : Out := inherent .deca (fun t => t.putA (dec8 t.a t.ccr)) s

/-- DECB (R226). -/
def execDecb (s : State) : Out := inherent .decb (fun t => t.putB (dec8 t.b t.ccr)) s

/-- DES: SP - 1; Z by INCDEC16_Z (R227). -/
def execDes (s : State) : Out := inherent .des (fun t => (t.setSp (t.sp - 1#16)).zAfterSp (t.sp - 1#16)) s

/-- DEX: X - 1, and Z (R228). -/
def execDex (s : State) : Out := inherent .dex (fun t => (t.setX (t.x - 1#16)).setZ16 (t.x - 1#16)) s

/-- DEY: Y - 1; Z by INCDEC16_Z (R229). -/
def execDey (s : State) : Out := inherent .dey (fun t => (t.setY (t.y - 1#16)).zAfterY (t.y - 1#16)) s

/-! ## Increment -/

/-- INC memory (R230). -/
def execInc (op : RmwOp) (s : State) : Out := modify (.inc op) op inc8 s

/-- INCA (R231). -/
def execInca (s : State) : Out := inherent .inca (fun t => t.putA (inc8 t.a t.ccr)) s

/-- INCB (R232). -/
def execIncb (s : State) : Out := inherent .incb (fun t => t.putB (inc8 t.b t.ccr)) s

/-- INS: SP + 1; Z by INCDEC16_Z (R233). -/
def execIns (s : State) : Out := inherent .ins (fun t => (t.setSp (t.sp + 1#16)).zAfterSp (t.sp + 1#16)) s

/-- INX: X + 1, and Z (R234). -/
def execInx (s : State) : Out := inherent .inx (fun t => (t.setX (t.x + 1#16)).setZ16 (t.x + 1#16)) s

/-- INY: Y + 1; Z by INCDEC16_Z (R235). -/
def execIny (s : State) : Out := inherent .iny (fun t => (t.setY (t.y + 1#16)).zAfterY (t.y + 1#16)) s

end Sys2Proof.Machine
end

