-- ==== Sys2Proof/Machine/Branch.lean ====
section
/-! DEFINITION. Branches (45_branch.md). No branch changes a flag (R359). -/

namespace Sys2Proof.Machine

open Sys2Proof

/-! ## Short branches -/

/-- BRN: never (R321). -/
def execBrn (rel : Byte) (s : State) : Out := branch (.brn rel) false (shortOffset rel) s

/-- BRA: always (R322). -/
def execBra (rel : Byte) (s : State) : Out := branch (.bra rel) true (shortOffset rel) s

/-- BCC: C = 0 (R323). -/
def execBcc (rel : Byte) (s : State) : Out := branch (.bcc rel) (!s.ccr.c) (shortOffset rel) s

/-- BCS: C = 1 (R324). -/
def execBcs (rel : Byte) (s : State) : Out := branch (.bcs rel) s.ccr.c (shortOffset rel) s

/-- BEQ: Z = 1 (R325). -/
def execBeq (rel : Byte) (s : State) : Out := branch (.beq rel) s.ccr.z (shortOffset rel) s

/-- BNE: Z = 0 (R326). -/
def execBne (rel : Byte) (s : State) : Out := branch (.bne rel) (!s.ccr.z) (shortOffset rel) s

/-- BMI: N = 1 (R327). -/
def execBmi (rel : Byte) (s : State) : Out := branch (.bmi rel) s.ccr.n (shortOffset rel) s

/-- BPL: N = 0 (R328). -/
def execBpl (rel : Byte) (s : State) : Out := branch (.bpl rel) (!s.ccr.n) (shortOffset rel) s

/-- BVS: V = 1 (R329). -/
def execBvs (rel : Byte) (s : State) : Out := branch (.bvs rel) s.ccr.v (shortOffset rel) s

/-- BVC: V = 0 (R330). -/
def execBvc (rel : Byte) (s : State) : Out := branch (.bvc rel) (!s.ccr.v) (shortOffset rel) s

/-- BHS: C = 0 (R331). -/
def execBhs (rel : Byte) (s : State) : Out := branch (.bhs rel) (!s.ccr.c) (shortOffset rel) s

/-- BHI: (C | Z) = 0 (R332). -/
def execBhi (rel : Byte) (s : State) : Out := branch (.bhi rel) s.ccr.hi (shortOffset rel) s

/-- BLS: (C | Z) = 1 (R333). -/
def execBls (rel : Byte) (s : State) : Out := branch (.bls rel) s.ccr.ls (shortOffset rel) s

/-- BLO: C = 1 (R334). -/
def execBlo (rel : Byte) (s : State) : Out := branch (.blo rel) s.ccr.c (shortOffset rel) s

/-- BGE: (N ^ V) = 0 (R335). -/
def execBge (rel : Byte) (s : State) : Out := branch (.bge rel) s.ccr.ge (shortOffset rel) s

/-- BGT: (Z | (N ^ V)) = 0 (R336). -/
def execBgt (rel : Byte) (s : State) : Out := branch (.bgt rel) s.ccr.gt (shortOffset rel) s

/-- BLE: (Z | (N ^ V)) = 1 (R337). -/
def execBle (rel : Byte) (s : State) : Out := branch (.ble rel) s.ccr.le (shortOffset rel) s

/-- BLT: (N ^ V) = 1 (R338). -/
def execBlt (rel : Byte) (s : State) : Out := branch (.blt rel) s.ccr.lt (shortOffset rel) s

/-! ## Long branches -/

/-- LBRN: never (R340). -/
def execLbrn (rel : Word) (s : State) : Out := branch (.lbrn rel) false rel s

/-- LBRA: always (R341). -/
def execLbra (rel : Word) (s : State) : Out := branch (.lbra rel) true rel s

/-- LBCC: C = 0 (R342). -/
def execLbcc (rel : Word) (s : State) : Out := branch (.lbcc rel) (!s.ccr.c) rel s

/-- LBCS: C = 1 (R343). -/
def execLbcs (rel : Word) (s : State) : Out := branch (.lbcs rel) s.ccr.c rel s

/-- LBEQ: Z = 1 (R344). -/
def execLbeq (rel : Word) (s : State) : Out := branch (.lbeq rel) s.ccr.z rel s

/-- LBNE: Z = 0 (R345). -/
def execLbne (rel : Word) (s : State) : Out := branch (.lbne rel) (!s.ccr.z) rel s

/-- LBMI: N = 1 (R346). -/
def execLbmi (rel : Word) (s : State) : Out := branch (.lbmi rel) s.ccr.n rel s

/-- LBPL: N = 0 (R347). -/
def execLbpl (rel : Word) (s : State) : Out := branch (.lbpl rel) (!s.ccr.n) rel s

/-- LBVS: V = 1 (R348). -/
def execLbvs (rel : Word) (s : State) : Out := branch (.lbvs rel) s.ccr.v rel s

/-- LBVC: V = 0 (R349). -/
def execLbvc (rel : Word) (s : State) : Out := branch (.lbvc rel) (!s.ccr.v) rel s

/-- LBHS: C = 0 (R350). -/
def execLbhs (rel : Word) (s : State) : Out := branch (.lbhs rel) (!s.ccr.c) rel s

/-- LBHI: (C | Z) = 0 (R351). -/
def execLbhi (rel : Word) (s : State) : Out := branch (.lbhi rel) s.ccr.hi rel s

/-- LBLS: (C | Z) = 1 (R352). -/
def execLbls (rel : Word) (s : State) : Out := branch (.lbls rel) s.ccr.ls rel s

/-- LBLO: C = 1 (R353). -/
def execLblo (rel : Word) (s : State) : Out := branch (.lblo rel) s.ccr.c rel s

/-- LBGE: (N ^ V) = 0 (R354). -/
def execLbge (rel : Word) (s : State) : Out := branch (.lbge rel) s.ccr.ge rel s

/-- LBGT: (Z | (N ^ V)) = 0 (R355). -/
def execLbgt (rel : Word) (s : State) : Out := branch (.lbgt rel) s.ccr.gt rel s

/-- LBLE: (Z | (N ^ V)) = 1 (R356). -/
def execLble (rel : Word) (s : State) : Out := branch (.lble rel) s.ccr.le rel s

/-- LBLT: (N ^ V) = 1 (R357). -/
def execLblt (rel : Word) (s : State) : Out := branch (.lblt rel) s.ccr.lt rel s

/-! ## BRSET -/

/-- BRSET: taken when every masked bit of the byte is 1 (R358); the excluded postbytes are refused. -/
def execBrset (op : MemOp) (mask : Byte) (rel : Byte) (s : State) : Out :=
  admitted (.brset op mask rel) <|
    orFault (read8At (MemOp.ea op (s.next (.brset op mask rel)) s)) fun (m, t) =>
      branch (.brset op mask rel) (decide (~~~m &&& mask = 0x00#8)) (shortOffset rel) t

end Sys2Proof.Machine
end

