-- ==== Sys2Proof/Machine/Call.lean ====
section
/-! DEFINITION. Subroutine call and return, and SWI (46_subroutine_swi.md). -/

namespace Sys2Proof.Machine

open Sys2Proof

/-- JSR: the effective address itself is the target; `next` is stored at the new SP (R370; 92_eei_decisions.md D17).
An auto form on SP is refused. -/
def execJsr (op : MemOp) (s : State) : Out :=
  admitted (.jsr op) <|
    orFault (MemOp.ea op (s.next (.jsr op)) s) fun (target, t) =>
      orFault ((t.setSp (t.sp - 2#16)).writeWord (t.sp - 2#16) (s.next (.jsr op))) fun u => .next (u.setPc target)

/-- RTS (R371). -/
def execRts (s : State) : Out :=
  orFault (s.readWord s.sp) fun target => .next ((s.setSp (s.sp + 2#16)).setPc target)

/-- SWI: the run ends (R372). -/
def execSwi (s : State) : Out := .next s.raiseSwi

end Sys2Proof.Machine
end

