-- ==== Sys2Proof/Machine/Compare.lean ====
section
/-! DEFINITION. Compare and test (44_data_test.md). -/

namespace Sys2Proof.Machine

open Sys2Proof

/-! ## Compare: a subtraction whose result is discarded -/

/-- CBA (R300). -/
def execCba (s : State) : Out := inherent .cba (fun t => t.setCcr (sub8 t.a t.b false t.ccr).2) s

/-- CMPA (R301). -/
def execCmpa (src : Src8) (s : State) : Out :=
  withSrc8 (.cmpa src) src (fun v t => t.setCcr (sub8 t.a v false t.ccr).2) s

/-- CMPB (R302). -/
def execCmpb (src : Src8) (s : State) : Out :=
  withSrc8 (.cmpb src) src (fun v t => t.setCcr (sub8 t.b v false t.ccr).2) s

/-- CPD (R303). -/
def execCpd (src : Src16) (s : State) : Out :=
  withSrc16 (.cpd src) src (fun v t => t.setCcr (sub16 t.d v t.ccr).2) s

/-- CPS; an auto form on SP is refused (R304). -/
def execCps (src : Src16) (s : State) : Out :=
  admitted (.cps src) (withSrc16 (.cps src) src (fun v t => t.setCcr (sub16 t.sp v t.ccr).2) s)

/-- CPX; an auto form on X is refused (R305). -/
def execCpx (src : Src16) (s : State) : Out :=
  admitted (.cpx src) (withSrc16 (.cpx src) src (fun v t => t.setCcr (sub16 t.x v t.ccr).2) s)

/-- CPY; an auto form on Y is refused (R306). -/
def execCpy (src : Src16) (s : State) : Out :=
  admitted (.cpy src) (withSrc16 (.cpy src) src (fun v t => t.setCcr (sub16 t.y v t.ccr).2) s)

/-! ## Test -/

/-- TST memory (R307). -/
def execTst (op : RmwOp) (s : State) : Out :=
  orFault (RmwOp.read op (s.next (.tst op)) s) fun (v, t) =>
    .next ((t.setCcr (t.ccr.test v)).setPc (s.next (.tst op)))

/-- TSTA (R308). -/
def execTsta (s : State) : Out := inherent .tsta (fun t => t.setCcr (t.ccr.test t.a)) s

/-- TSTB (R309). -/
def execTstb (s : State) : Out := inherent .tstb (fun t => t.setCcr (t.ccr.test t.b)) s

end Sys2Proof.Machine
end

