-- ==== Sys2Proof/Machine/Logic.lean ====
section
/-! DEFINITION. Logic and bit operations (43_logic_bit.md). -/

namespace Sys2Proof.Machine

open Sys2Proof

/-! ## AND, exclusive OR, OR -/

/-- ANDA (R260). -/
def execAnda (src : Src8) (s : State) : Out :=
  withSrc8 (.anda src) src (fun v t => t.putA (logicResult (t.a &&& v) t.ccr)) s

/-- ANDB (R261). -/
def execAndb (src : Src8) (s : State) : Out :=
  withSrc8 (.andb src) src (fun v t => t.putB (logicResult (t.b &&& v) t.ccr)) s

/-- EORA (R263). -/
def execEora (src : Src8) (s : State) : Out :=
  withSrc8 (.eora src) src (fun v t => t.putA (logicResult (t.a ^^^ v) t.ccr)) s

/-- EORB (R264). -/
def execEorb (src : Src8) (s : State) : Out :=
  withSrc8 (.eorb src) src (fun v t => t.putB (logicResult (t.b ^^^ v) t.ccr)) s

/-- ORAA (R265). -/
def execOraa (src : Src8) (s : State) : Out :=
  withSrc8 (.oraa src) src (fun v t => t.putA (logicResult (t.a ||| v) t.ccr)) s

/-- ORAB (R266). -/
def execOrab (src : Src8) (s : State) : Out :=
  withSrc8 (.orab src) src (fun v t => t.putB (logicResult (t.b ||| v) t.ccr)) s

/-! ## The CCR -/

/-- ANDCC (R262). -/
def execAndcc (mask : Byte) (s : State) : Out := inherent (.andcc mask) (fun t => t.setCcr (t.ccr.and mask)) s

/-- ORCC (R267). -/
def execOrcc (mask : Byte) (s : State) : Out :=
  inherent (.orcc mask) (fun t => t.setCcr (t.ccr.or t.params.xbitSticky mask)) s

/-- CLC (R268). -/
def execClc (s : State) : Out := inherent .clc (fun t => t.setCcr { t.ccr with c := false }) s

/-- CLI (R269). -/
def execCli (s : State) : Out := inherent .cli (fun t => t.setCcr { t.ccr with i := false }) s

/-- CLV (R270). -/
def execClv (s : State) : Out := inherent .clv (fun t => t.setCcr { t.ccr with v := false }) s

/-! ## One's complement -/

/-- COM memory (R271). -/
def execCom (op : RmwOp) (s : State) : Out := modify (.com op) op com8 s

/-- COMA (R272). -/
def execComa (s : State) : Out := inherent .coma (fun t => t.putA (com8 t.a t.ccr)) s

/-- COMB (R273). -/
def execComb (s : State) : Out := inherent .comb (fun t => t.putB (com8 t.b t.ccr)) s

/-! ## Two's complement -/

/-- NEG memory (R274). -/
def execNeg (op : RmwOp) (s : State) : Out := modify (.neg op) op neg8 s

/-- NEGA (R275). -/
def execNega (s : State) : Out := inherent .nega (fun t => t.putA (neg8 t.a t.ccr)) s

/-- NEGB (R276). -/
def execNegb (s : State) : Out := inherent .negb (fun t => t.putB (neg8 t.b t.ccr)) s

/-! ## Bits -/

/-- BCLR: clear the masked bits; the excluded postbytes are refused (R277). -/
def execBclr (op : MemOp) (mask : Byte) (s : State) : Out :=
  admitted (.bclr op mask) (modifyBits (.bclr op mask) op (fun m f => logicResult (m &&& ~~~mask) f) s)

/-- BITA: the flags of the AND (R278). -/
def execBita (src : Src8) (s : State) : Out :=
  withSrc8 (.bita src) src (fun v t => t.setCcr (t.ccr.logic8 (t.a &&& v))) s

/-- BITB: the flags of the AND (R279). -/
def execBitb (src : Src8) (s : State) : Out :=
  withSrc8 (.bitb src) src (fun v t => t.setCcr (t.ccr.logic8 (t.b &&& v))) s

/-- BSET: set the masked bits; the excluded postbytes are refused (R280). -/
def execBset (op : MemOp) (mask : Byte) (s : State) : Out :=
  admitted (.bset op mask) (modifyBits (.bset op mask) op (fun m f => logicResult (m ||| mask) f) s)

end Sys2Proof.Machine
end

