-- ==== Sys2Proof/Machine/Shift.lean ====
section
/-! DEFINITION. Shifts and rotates by one place (41_shift_rotate.md). -/

namespace Sys2Proof.Machine

open Sys2Proof

/-! ## LSL: logical shift left -/

/-- LSL memory (R180). -/
def execLsl (op : RmwOp) (s : State) : Out := modify (.lsl op) op lsl8 s

/-- LSLA (R181). -/
def execLsla (s : State) : Out := inherent .lsla (fun t => t.putA (lsl8 t.a t.ccr)) s

/-- LSLB (R182). -/
def execLslb (s : State) : Out := inherent .lslb (fun t => t.putB (lsl8 t.b t.ccr)) s

/-- LSLD (R183). -/
def execLsld (s : State) : Out := inherent .lsld (fun t => t.putD (lsl16 t.d t.ccr)) s

/-! ## LSR: logical shift right -/

/-- LSR memory (R184). -/
def execLsr (op : RmwOp) (s : State) : Out := modify (.lsr op) op lsr8 s

/-- LSRA (R185). -/
def execLsra (s : State) : Out := inherent .lsra (fun t => t.putA (lsr8 t.a t.ccr)) s

/-- LSRB (R186). -/
def execLsrb (s : State) : Out := inherent .lsrb (fun t => t.putB (lsr8 t.b t.ccr)) s

/-- LSRD (R187). -/
def execLsrd (s : State) : Out := inherent .lsrd (fun t => t.putD (lsr16 t.d t.ccr)) s

/-! ## ASL: arithmetic shift left, another name of the logical one -/

/-- ASL memory (R188). -/
def execAsl (op : RmwOp) (s : State) : Out := modify (.asl op) op lsl8 s

/-- ASLA (R189). -/
def execAsla (s : State) : Out := inherent .asla (fun t => t.putA (lsl8 t.a t.ccr)) s

/-- ASLB (R190). -/
def execAslb (s : State) : Out := inherent .aslb (fun t => t.putB (lsl8 t.b t.ccr)) s

/-- ASLD (R191). -/
def execAsld (s : State) : Out := inherent .asld (fun t => t.putD (lsl16 t.d t.ccr)) s

/-! ## ASR: arithmetic shift right -/

/-- ASR memory (R192). -/
def execAsr (op : RmwOp) (s : State) : Out := modify (.asr op) op asr8 s

/-- ASRA (R193). -/
def execAsra (s : State) : Out := inherent .asra (fun t => t.putA (asr8 t.a t.ccr)) s

/-- ASRB (R194). -/
def execAsrb (s : State) : Out := inherent .asrb (fun t => t.putB (asr8 t.b t.ccr)) s

/-! ## ROL: rotate left through C -/

/-- ROL memory (R195). -/
def execRol (op : RmwOp) (s : State) : Out := modify (.rol op) op rol8 s

/-- ROLA (R196). -/
def execRola (s : State) : Out := inherent .rola (fun t => t.putA (rol8 t.a t.ccr)) s

/-- ROLB (R197). -/
def execRolb (s : State) : Out := inherent .rolb (fun t => t.putB (rol8 t.b t.ccr)) s

/-! ## ROR: rotate right through C -/

/-- ROR memory (R198). -/
def execRor (op : RmwOp) (s : State) : Out := modify (.ror op) op ror8 s

/-- RORA (R199). -/
def execRora (s : State) : Out := inherent .rora (fun t => t.putA (ror8 t.a t.ccr)) s

/-- RORB (R200). -/
def execRorb (s : State) : Out := inherent .rorb (fun t => t.putB (ror8 t.b t.ccr)) s

end Sys2Proof.Machine
end

