-- ==== Sys2Proof/Machine/Transfer.lean ====
section
/-! DEFINITION. Loads, stores, transfers and moves (40_data_transfer.md). -/

namespace Sys2Proof.Machine

open Sys2Proof

/-! ## Loads -/

/-- LDAA: load A (R140). -/
def execLdaa (src : Src8) (s : State) : Out := withSrc8 (.ldaa src) src (fun v t => t.putA (logicResult v t.ccr)) s

/-- LDAB: load B (R141). -/
def execLdab (src : Src8) (s : State) : Out := withSrc8 (.ldab src) src (fun v t => t.putB (logicResult v t.ccr)) s

/-- LDD: load D (R142). -/
def execLdd (src : Src16) (s : State) : Out :=
  withSrc16 (.ldd src) src (fun v t => (t.setD v).setCcr (t.ccr.logic16 v)) s

/-- LDX: load X; an auto form on X is refused (R143). -/
def execLdx (src : Src16) (s : State) : Out :=
  admitted (.ldx src) (withSrc16 (.ldx src) src (fun v t => (t.setX v).setCcr (t.ccr.logic16 v)) s)

/-- LDY: load Y; an auto form on Y is refused (R144). -/
def execLdy (src : Src16) (s : State) : Out :=
  admitted (.ldy src) (withSrc16 (.ldy src) src (fun v t => (t.setY v).setCcr (t.ccr.logic16 v)) s)

/-- LDS: load SP; an auto form on SP is refused (R145). -/
def execLds (src : Src16) (s : State) : Out :=
  admitted (.lds src) (withSrc16 (.lds src) src (fun v t => (t.setSp v).setCcr (t.ccr.logic16 v)) s)

/-! ## Stores -/

/-- STAA: store A (R146). -/
def execStaa (op : MemOp) (s : State) : Out := store8 (.staa op) op State.a s

/-- STAB: store B (R147). -/
def execStab (op : MemOp) (s : State) : Out := store8 (.stab op) op State.b s

/-- STD: store D (R148). -/
def execStd (op : MemOp) (s : State) : Out := store16 (.std op) op State.d s

/-- STX: store X; an auto form on X is refused (R149). -/
def execStx (op : MemOp) (s : State) : Out := admitted (.stx op) (store16 (.stx op) op State.x s)

/-- STY: store Y; an auto form on Y is refused (R150). -/
def execSty (op : MemOp) (s : State) : Out := admitted (.sty op) (store16 (.sty op) op State.y s)

/-- STS: store SP; an auto form on SP is refused (R151). -/
def execSts (op : MemOp) (s : State) : Out := admitted (.sts op) (store16 (.sts op) op State.sp s)

/-! ## Transfers -/

/-- TAB: A to B (R152). -/
def execTab (s : State) : Out := inherent .tab (fun t => t.putB (logicResult t.a t.ccr)) s

/-- TBA: B to A (R153). -/
def execTba (s : State) : Out := inherent .tba (fun t => t.putA (logicResult t.b t.ccr)) s

/-- TAP: A to the CCR (R154). -/
def execTap (s : State) : Out := inherent .tap (fun t => t.setCcr (t.ccr.transfer t.params.xbitSticky t.a)) s

/-- TPA: the CCR to A (R155). -/
def execTpa (s : State) : Out := inherent .tpa (fun t => t.setA t.ccr.toByte) s

/-! ## Moves: the source is read before the destination address is evaluated (20_memory.md R59) -/

/-- MOVB (R156); the excluded postbytes are refused. -/
def execMovb (src : MovSrc8) (dst : MovDst) (s : State) : Out :=
  admitted (.movb src dst) <|
    orFault (MovSrc8.read src (s.next (.movb src dst)) s) fun (v, t) =>
      orFault (MovDst.ea dst (s.next (.movb src dst)) t) fun (ea, u) =>
        orFault (u.writeByte ea v) fun w => .next (w.setPc (s.next (.movb src dst)))

/-- MOVW (R157); the excluded postbytes are refused. -/
def execMovw (src : MovSrc16) (dst : MovDst) (s : State) : Out :=
  admitted (.movw src dst) <|
    orFault (MovSrc16.read src (s.next (.movw src dst)) s) fun (v, t) =>
      orFault (MovDst.ea dst (s.next (.movw src dst)) t) fun (ea, u) =>
        orFault (u.writeWord ea v) fun w => .next (w.setPc (s.next (.movw src dst)))

end Sys2Proof.Machine
end

