-- ==== Sys2Proof/Machine/Dispatch.lean ====
section
/-! DEFINITION. The meaning of every instruction: one arm per constructor, one call per arm. -/

namespace Sys2Proof.Machine

open Sys2Proof

def exec (i : Instr) (s : State) : Host.Outcome State Fault Refusal :=
  match i with
  | .ldaa src => Sys2Proof.Machine.execLdaa src s
  | .ldab src => Sys2Proof.Machine.execLdab src s
  | .ldd src => Sys2Proof.Machine.execLdd src s
  | .ldx src => Sys2Proof.Machine.execLdx src s
  | .ldy src => Sys2Proof.Machine.execLdy src s
  | .lds src => Sys2Proof.Machine.execLds src s
  | .staa op => Sys2Proof.Machine.execStaa op s
  | .stab op => Sys2Proof.Machine.execStab op s
  | .std op => Sys2Proof.Machine.execStd op s
  | .stx op => Sys2Proof.Machine.execStx op s
  | .sty op => Sys2Proof.Machine.execSty op s
  | .sts op => Sys2Proof.Machine.execSts op s
  | .tab => Sys2Proof.Machine.execTab s
  | .tba => Sys2Proof.Machine.execTba s
  | .tap => Sys2Proof.Machine.execTap s
  | .tpa => Sys2Proof.Machine.execTpa s
  | .movb src dst => Sys2Proof.Machine.execMovb src dst s
  | .movw src dst => Sys2Proof.Machine.execMovw src dst s
  | .lsl op => Sys2Proof.Machine.execLsl op s
  | .lsla => Sys2Proof.Machine.execLsla s
  | .lslb => Sys2Proof.Machine.execLslb s
  | .lsld => Sys2Proof.Machine.execLsld s
  | .lsr op => Sys2Proof.Machine.execLsr op s
  | .lsra => Sys2Proof.Machine.execLsra s
  | .lsrb => Sys2Proof.Machine.execLsrb s
  | .lsrd => Sys2Proof.Machine.execLsrd s
  | .asl op => Sys2Proof.Machine.execAsl op s
  | .asla => Sys2Proof.Machine.execAsla s
  | .aslb => Sys2Proof.Machine.execAslb s
  | .asld => Sys2Proof.Machine.execAsld s
  | .asr op => Sys2Proof.Machine.execAsr op s
  | .asra => Sys2Proof.Machine.execAsra s
  | .asrb => Sys2Proof.Machine.execAsrb s
  | .rol op => Sys2Proof.Machine.execRol op s
  | .rola => Sys2Proof.Machine.execRola s
  | .rolb => Sys2Proof.Machine.execRolb s
  | .ror op => Sys2Proof.Machine.execRor op s
  | .rora => Sys2Proof.Machine.execRora s
  | .rorb => Sys2Proof.Machine.execRorb s
  | .aba => Sys2Proof.Machine.execAba s
  | .abx => Sys2Proof.Machine.execAbx s
  | .aby => Sys2Proof.Machine.execAby s
  | .adda src => Sys2Proof.Machine.execAdda src s
  | .addb src => Sys2Proof.Machine.execAddb src s
  | .addd src => Sys2Proof.Machine.execAddd src s
  | .adca src => Sys2Proof.Machine.execAdca src s
  | .adcb src => Sys2Proof.Machine.execAdcb src s
  | .sba => Sys2Proof.Machine.execSba s
  | .suba src => Sys2Proof.Machine.execSuba src s
  | .subb src => Sys2Proof.Machine.execSubb src s
  | .subd src => Sys2Proof.Machine.execSubd src s
  | .sbca src => Sys2Proof.Machine.execSbca src s
  | .sbcb src => Sys2Proof.Machine.execSbcb src s
  | .dec op => Sys2Proof.Machine.execDec op s
  | .deca => Sys2Proof.Machine.execDeca s
  | .decb => Sys2Proof.Machine.execDecb s
  | .des => Sys2Proof.Machine.execDes s
  | .dex => Sys2Proof.Machine.execDex s
  | .dey => Sys2Proof.Machine.execDey s
  | .inc op => Sys2Proof.Machine.execInc op s
  | .inca => Sys2Proof.Machine.execInca s
  | .incb => Sys2Proof.Machine.execIncb s
  | .ins => Sys2Proof.Machine.execIns s
  | .inx => Sys2Proof.Machine.execInx s
  | .iny => Sys2Proof.Machine.execIny s
  | .anda src => Sys2Proof.Machine.execAnda src s
  | .andb src => Sys2Proof.Machine.execAndb src s
  | .andcc mask => Sys2Proof.Machine.execAndcc mask s
  | .eora src => Sys2Proof.Machine.execEora src s
  | .eorb src => Sys2Proof.Machine.execEorb src s
  | .oraa src => Sys2Proof.Machine.execOraa src s
  | .orab src => Sys2Proof.Machine.execOrab src s
  | .orcc mask => Sys2Proof.Machine.execOrcc mask s
  | .clc => Sys2Proof.Machine.execClc s
  | .cli => Sys2Proof.Machine.execCli s
  | .clv => Sys2Proof.Machine.execClv s
  | .com op => Sys2Proof.Machine.execCom op s
  | .coma => Sys2Proof.Machine.execComa s
  | .comb => Sys2Proof.Machine.execComb s
  | .neg op => Sys2Proof.Machine.execNeg op s
  | .nega => Sys2Proof.Machine.execNega s
  | .negb => Sys2Proof.Machine.execNegb s
  | .bclr op mask => Sys2Proof.Machine.execBclr op mask s
  | .bita src => Sys2Proof.Machine.execBita src s
  | .bitb src => Sys2Proof.Machine.execBitb src s
  | .bset op mask => Sys2Proof.Machine.execBset op mask s
  | .cba => Sys2Proof.Machine.execCba s
  | .cmpa src => Sys2Proof.Machine.execCmpa src s
  | .cmpb src => Sys2Proof.Machine.execCmpb src s
  | .cpd src => Sys2Proof.Machine.execCpd src s
  | .cps src => Sys2Proof.Machine.execCps src s
  | .cpx src => Sys2Proof.Machine.execCpx src s
  | .cpy src => Sys2Proof.Machine.execCpy src s
  | .tst op => Sys2Proof.Machine.execTst op s
  | .tsta => Sys2Proof.Machine.execTsta s
  | .tstb => Sys2Proof.Machine.execTstb s
  | .brn rel => Sys2Proof.Machine.execBrn rel s
  | .bra rel => Sys2Proof.Machine.execBra rel s
  | .bcc rel => Sys2Proof.Machine.execBcc rel s
  | .bcs rel => Sys2Proof.Machine.execBcs rel s
  | .beq rel => Sys2Proof.Machine.execBeq rel s
  | .bne rel => Sys2Proof.Machine.execBne rel s
  | .bmi rel => Sys2Proof.Machine.execBmi rel s
  | .bpl rel => Sys2Proof.Machine.execBpl rel s
  | .bvs rel => Sys2Proof.Machine.execBvs rel s
  | .bvc rel => Sys2Proof.Machine.execBvc rel s
  | .bhs rel => Sys2Proof.Machine.execBhs rel s
  | .bhi rel => Sys2Proof.Machine.execBhi rel s
  | .bls rel => Sys2Proof.Machine.execBls rel s
  | .blo rel => Sys2Proof.Machine.execBlo rel s
  | .bge rel => Sys2Proof.Machine.execBge rel s
  | .bgt rel => Sys2Proof.Machine.execBgt rel s
  | .ble rel => Sys2Proof.Machine.execBle rel s
  | .blt rel => Sys2Proof.Machine.execBlt rel s
  | .lbrn rel => Sys2Proof.Machine.execLbrn rel s
  | .lbra rel => Sys2Proof.Machine.execLbra rel s
  | .lbcc rel => Sys2Proof.Machine.execLbcc rel s
  | .lbcs rel => Sys2Proof.Machine.execLbcs rel s
  | .lbeq rel => Sys2Proof.Machine.execLbeq rel s
  | .lbne rel => Sys2Proof.Machine.execLbne rel s
  | .lbmi rel => Sys2Proof.Machine.execLbmi rel s
  | .lbpl rel => Sys2Proof.Machine.execLbpl rel s
  | .lbvs rel => Sys2Proof.Machine.execLbvs rel s
  | .lbvc rel => Sys2Proof.Machine.execLbvc rel s
  | .lbhs rel => Sys2Proof.Machine.execLbhs rel s
  | .lbhi rel => Sys2Proof.Machine.execLbhi rel s
  | .lbls rel => Sys2Proof.Machine.execLbls rel s
  | .lblo rel => Sys2Proof.Machine.execLblo rel s
  | .lbge rel => Sys2Proof.Machine.execLbge rel s
  | .lbgt rel => Sys2Proof.Machine.execLbgt rel s
  | .lble rel => Sys2Proof.Machine.execLble rel s
  | .lblt rel => Sys2Proof.Machine.execLblt rel s
  | .brset op mask rel => Sys2Proof.Machine.execBrset op mask rel s
  | .jsr op => Sys2Proof.Machine.execJsr op s
  | .rts => Sys2Proof.Machine.execRts s
  | .swi => Sys2Proof.Machine.execSwi s

end Sys2Proof.Machine
end

