-- ==== Sys2Proof/Machine/Step.lean ====
section
/-! DEFINITION. One step: fetch and decode the instruction at the pc, then run it. -/

namespace Sys2Proof.Machine

open Sys2Proof

/-- One step (60_exceptions.md R420, R426; 20_memory.md R67). A run that is over has no further step. -/
def step (s : State) : Host.Outcome State Fault Refusal :=
  if s.over then .fault .runOver
  else
    match s.fetch with
    | .instr i => exec i s
    | .fault e => .fault e
    | .refused bytes => .refused (.noInstruction bytes)

/-- `s` with an instruction, given as a number, loaded at the pc, ready to be fetched and run (log 14). -/
def State.withFetchWord (s : State) (nbits w : Nat) : State := (s.ready 6).place s.pc (tableBytes nbits w)

end Sys2Proof.Machine
end

