-- ==== Sys2Proof/Machine/Loader.lean ====
section
/-! DEFINITION. From load records to the state a run starts in: S-records (48_assembler_directives.md R409 to R412)
and the launch (70_reset_and_hazards.md R451). The record structure is PRESUMED (log 15): the spec takes it from
general knowledge and checks it against the records the source prints. -/

namespace Sys2Proof.Machine

open Sys2Proof

/-! ## Hexadecimal text -/

/-- A hexadecimal digit. -/
def hexDigit (c : Char) : Option Nat :=
  let n := c.toNat
  if 48 ≤ n ∧ n ≤ 57 then some (n - 48)
  else if 65 ≤ n ∧ n ≤ 70 then some (n - 55)
  else if 97 ≤ n ∧ n ≤ 102 then some (n - 87)
  else none

/-- Pairs of hexadecimal digits as bytes. -/
def hexBytes : List Char → Option (List Byte)
  | [] => some []
  | [_] => none
  | a :: b :: cs => do
    let h ← hexDigit a
    let l ← hexDigit b
    let rest ← hexBytes cs
    pure (BitVec.ofNat 8 (16 * h + l) :: rest)

/-- Text cut into lines. DESIGN CHOICE (logs 20, 22): a line feed ends a line, so that nothing after the last one is no
line, and carriage returns are dropped. -/
def splitLines : List Char → List (List Char)
  | [] => []
  | c :: cs =>
    if c = '\n' then [] :: splitLines cs
    else if c = '\r' then splitLines cs
    else
      match splitLines cs with
      | [] => [[c]]
      | l :: ls => (c :: l) :: ls

/-! ## Records (R410) -/

/-- The record types of the source. -/
inductive RecordKind where
  | header  -- S0
  | data    -- S1
  | finish  -- S9
deriving DecidableEq, Repr

/-- One record. -/
structure Record where
  kind : RecordKind
  addr : Word
  data : List Byte
deriving DecidableEq, Repr

/-- The type digit. -/
def RecordKind.ofDigit (c : Char) : Option RecordKind :=
  if c = '0' then some .header else if c = '1' then some .data else if c = '9' then some .finish else none

/-- The sum of bytes as numbers. -/
def byteSum : List Byte → Nat
  | [] => 0
  | b :: bs => b.toNat + byteSum bs

/-- "the ones' complement of the low 8 bits of the sum of cc, both address bytes and all data bytes". -/
def checksum (bytes : List Byte) : Byte := ~~~(BitVec.ofNat 8 (byteSum bytes))

/-- Read one record (R410). DESIGN CHOICE (log 20): a wrong count or checksum is no record, and a hexadecimal digit may
be a small letter. -/
def parseRecord : List Char → Option Record
  | 'S' :: t :: cs => do
    let kind ← RecordKind.ofDigit t
    match ← hexBytes cs with
    | cc :: hi :: lo :: rest =>
      match rest.reverse with
      | kk :: dataRev =>
        let data := dataRev.reverse
        if cc.toNat = data.length + 3 ∧ kk = checksum (cc :: hi :: lo :: data) then
          some { kind := kind, addr := join hi lo, data := data }
        else none
      | [] => none
    | _ => none
  | _ => none

/-- The bytes of a record, as text has them after the type digit. -/
def Record.bytes (r : Record) : List Byte :=
  let body := BitVec.ofNat 8 (r.data.length + 3) :: hiByte r.addr :: loByte r.addr :: r.data
  body ++ [checksum body]

/-- A hexadecimal digit as the source prints it. -/
def hexChar (n : Nat) : Char := Char.ofNat (if n < 10 then 48 + n else 55 + n)

/-- The type digit. -/
def RecordKind.digit : RecordKind → Char
  | .header => '0'
  | .data => '1'
  | .finish => '9'

/-- A record as a line of text. -/
def Record.text (r : Record) : List Char :=
  'S' :: r.kind.digit :: r.bytes.flatMap fun b => [hexChar (b.toNat / 16), hexChar (b.toNat % 16)]

/-- Write the data of an S1 record; S0 and S9 load nothing (R410, R411). -/
def Record.load (r : Record) (m : Memory) : Memory :=
  match r.kind with
  | .data => Memory.setAll m r.addr r.data
  | .header | .finish => m

/-- Load records in order, each S1 record among them (R411). DESIGN CHOICE (log 20): S1 records that stand after the S9
record are loaded too, of two bytes for one address the later stands, and no S0 or S9 record need be there. -/
def loadRecords : List Record → Memory → Memory
  | [], m => m
  | r :: rs, m => loadRecords rs (r.load m)

/-- Read the records of an .S19 text. DESIGN CHOICE (log 20): empty lines are skipped, any other line must be a
record. -/
def parseRecords : List (List Char) → Option (List Record)
  | [] => some []
  | l :: ls => do
    let rest ← parseRecords ls
    if l.isEmpty then pure rest else pure ((← parseRecord l) :: rest)

/-- The launch image of an .S19 text (R411). -/
def loadS19 (text : String) : Option Memory := do
  let rs ← parseRecords (splitLines text.toList)
  pure (loadRecords rs [])

/-! ## Records from an image -/

/-- Cut a run of bytes into pieces of at most 16, as the source's records are. DESIGN CHOICE (log 20): every piece but
the last has 16. The first argument is fuel. -/
def chunkData : Nat → Word → List Byte → List Record
  | 0, _, _ => []
  | n + 1, a, bs =>
    if bs.isEmpty then []
    else { kind := .data, addr := a, data := bs.take 16 } :: chunkData n (a + 16#16) (bs.drop 16)

/-- The S0 record, the data records of each run of bytes, the S9 record. -/
def recordsOf (runs : List (Word × List Byte)) : List Record :=
  { kind := .header, addr := 0#16, data := [] } ::
    (runs.flatMap fun (a, bs) => chunkData bs.length a bs) ++ [{ kind := .finish, addr := 0#16, data := [] }]

/-! ## Launch (70_reset_and_hazards.md R451) -/

/-- A launch: the image in memory, and kept as the launch bytes (20_memory.md R66), the pc at ENTRY.
A, B, X, Y, SP and the CCR hold what `State.reset` gives them (logs 1, 2), where the spec leaves them without a value. -/
def State.launch (p : Params) (entry : Word) (image : Memory) : State :=
  { State.reset with pc := entry, mem := image, params := { p with image := image } }

end Sys2Proof.Machine
end

