-- ==== Sys2Proof/Safety.lean ====
section
/-! DEFINITION. What counts as a safe run, and the terms in which the claims speak of operands, frames and
encodings. -/

namespace Sys2Proof.Machine

open Sys2Proof

/-! ## Runs -/

/-- The invariant that every step keeps: the memory and the launch image are in canonical form. -/
def State.Inv (s : State) : Prop := Memory.wf s.mem = true ∧ Memory.wf s.params.image = true

/-- `t` is reached from `s` by steps that answer a next state. -/
inductive Reach (s : State) : State → Prop where
  | refl : Reach s s
  | step {t u : State} : Reach s t → Machine.step t = .next u → Reach s u

/-- Every byte that was loaded as part of an instruction still holds what it held (20_memory.md R66). -/
def CodeIntact (s t : State) : Prop := ∀ a, s.params.isCode a = true → Memory.get t.mem a = Memory.get s.mem a

/-- Every byte that was loaded as part of an instruction still is in memory what it was at launch (20_memory.md R66). -/
def CodeAsLaunched (s : State) : Prop :=
  ∀ a, s.params.isCode a = true → Memory.get s.mem a = Memory.get s.params.image a

/-- The run from `s` comes to its end, by SWI or at a halt address, without a fault or a refusal before
(60_exceptions.md R420; 70_reset_and_hazards.md R457). -/
def Completes (s : State) : Prop := ∃ t, Reach s t ∧ t.over = true

/-- The same instruction, run `n` times in a row. -/
def execTimes (i : Instr) : Nat → State → Out
  | 0, s => .next s
  | n + 1, s =>
    match exec i s with
    | .next t => execTimes i n t
    | .fault e => .fault e
    | .refused r => .refused r

/-- One instruction, then another. -/
def execThen (i j : Instr) (s : State) : Out :=
  match exec i s with
  | .next t => exec j t
  | .fault e => .fault e
  | .refused r => .refused r

/-! ## Bytes in memory and their decoding -/

/-- The fetch reads the bytes at ascending addresses from `a`, modulo 2^16. -/
def BytesAt (s : State) : Word → List Byte → Prop
  | _, [] => True
  | a, b :: bs => s.fetchByte a = .ok b ∧ BytesAt s (a + 1#16) bs

/-- The bytes are those of the instruction, whatever follows. -/
def Decodes (bytes : List Byte) (i : Instr) : Prop := ∀ rest, decode (bytes ++ rest) = .instr i rest

/-- No instruction starts with the bytes, whatever follows. -/
def NotDecoded (bytes : List Byte) : Prop := ∀ rest, decode (bytes ++ rest) = .refused

/-! ## Operands -/

/-- The state after an operand's address is evaluated: an auto form has stepped its base register, once, and any
other operand has changed nothing (30_encoding.md R101 to R107, R109). -/
def stepOf : Option IdxForm → State → State
  | some (.auto r _ n), s => s.setAuto r (s.auto r + BitVec.ofInt 16 (autoAdj n))
  | some (.off5 _ _), s | some (.off9 _ _), s | some (.off16 _ _), s | some (.ind16 _ _), s
  | some (.acc _ _), s | some (.indD _), s | none, s => s

/-! ## Frames: what an instruction of each shape does, and that it does nothing else -/

/-- An inherent instruction: it completes in every state, its whole effect is `f`, and the pc goes to `next`. -/
def IsInherent (i : Instr) (f : State → State) : Prop :=
  ∀ s, exec i s = .next { f s with pc := s.pc + BitVec.ofNat 16 i.length }

/-- An instruction with an 8-bit source operand. When the operand can be read, with value `v`, the instruction
completes; its whole effect beside the pc is `f v` after the step of an auto form. When the operand cannot be read,
its fault is the step's. -/
def IsSource8 (mk : Src8 → Instr) (f : Byte → State → State) : Prop :=
  ∀ src s, (mk src).wellFormed = true →
    (∀ v t, Src8.read src (s.next (mk src)) s = .ok (v, t) →
      exec (mk src) s = .next { f v (stepOf src.form s) with pc := s.pc + BitVec.ofNat 16 (mk src).length }) ∧
    (∀ e, Src8.read src (s.next (mk src)) s = .error e → exec (mk src) s = .fault e)

/-- An instruction with a 16-bit source operand, as `IsSource8`. -/
def IsSource16 (mk : Src16 → Instr) (f : Word → State → State) : Prop :=
  ∀ src s, (mk src).wellFormed = true →
    (∀ v t, Src16.read src (s.next (mk src)) s = .ok (v, t) →
      exec (mk src) s = .next { f v (stepOf src.form s) with pc := s.pc + BitVec.ofNat 16 (mk src).length }) ∧
    (∀ e, Src16.read src (s.next (mk src)) s = .error e → exec (mk src) s = .fault e)

/-- A store of an 8-bit register. When the effective address `ea` can be evaluated and written, the instruction
completes: the base register of an auto form is stepped, the flags are `flags v` of the stored value `v`, the byte at
`ea` is `v`, every other byte reads as before, nothing else changes. -/
def IsStore8 (mk : MemOp → Instr) (reg : State → Byte) (flags : Byte → Ccr → Ccr) : Prop :=
  ∀ op s, (mk op).wellFormed = true →
    (∀ ea t, MemOp.ea op (s.next (mk op)) s = .ok (ea, t) → s.params.mapped ea = true →
      s.params.isCode ea = false →
      ∃ m, exec (mk op) s = .next { stepOf op.form s with
          mem := m, ccr := flags (reg s) s.ccr, pc := s.pc + BitVec.ofNat 16 (mk op).length } ∧
        Memory.get m ea = some (reg s) ∧ (∀ a, a ≠ ea → Memory.get m a = Memory.get s.mem a)) ∧
    (∀ ea t, MemOp.ea op (s.next (mk op)) s = .ok (ea, t) → s.params.mapped ea = true →
      s.params.isCode ea = true → exec (mk op) s = .fault (.storeToCode ea)) ∧
    (∀ ea t, MemOp.ea op (s.next (mk op)) s = .ok (ea, t) → s.params.mapped ea = false →
      exec (mk op) s = .fault (.unmapped ea)) ∧
    (∀ e, MemOp.ea op (s.next (mk op)) s = .error e → exec (mk op) s = .fault e)

/-- A store of a 16-bit register: the high byte to `ea`, the low byte to `ea + 1` modulo 2^16; else as `IsStore8`.
The first byte that cannot be written, in that order, gives the fault. -/
def IsStore16 (mk : MemOp → Instr) (reg : State → Word) (flags : Word → Ccr → Ccr) : Prop :=
  ∀ op s, (mk op).wellFormed = true →
    (∀ ea t, MemOp.ea op (s.next (mk op)) s = .ok (ea, t) →
      s.params.mapped ea = true → s.params.isCode ea = false →
      s.params.mapped (ea + 1#16) = true → s.params.isCode (ea + 1#16) = false →
      ∃ m, exec (mk op) s = .next { stepOf op.form s with
          mem := m, ccr := flags (reg s) s.ccr, pc := s.pc + BitVec.ofNat 16 (mk op).length } ∧
        Memory.get m ea = some (hiByte (reg s)) ∧ Memory.get m (ea + 1#16) = some (loByte (reg s)) ∧
        (∀ a, a ≠ ea → a ≠ ea + 1#16 → Memory.get m a = Memory.get s.mem a)) ∧
    (∀ ea t e, MemOp.ea op (s.next (mk op)) s = .ok (ea, t) → s.writeByte ea (hiByte (reg s)) = .error e →
      exec (mk op) s = .fault e) ∧
    (∀ ea t e, MemOp.ea op (s.next (mk op)) s = .ok (ea, t) → s.params.mapped ea = true →
      s.params.isCode ea = false → s.writeByte (ea + 1#16) (loByte (reg s)) = .error e →
      exec (mk op) s = .fault e) ∧
    (∀ e, MemOp.ea op (s.next (mk op)) s = .error e → exec (mk op) s = .fault e)

/-- A read-modify-write of the byte at an effective address `ea` that is evaluated once, by `f`, which gives the new
byte and the new flags from the old ones. When the byte can be read and written the instruction completes: the base
register of an auto form is stepped, every byte other than the one at `ea` reads as before, nothing else changes. -/
def IsModify (mk : RmwOp → Instr) (f : Byte → Ccr → Byte × Ccr) : Prop :=
  ∀ op s,
    (∀ ea t v, RmwOp.ea op (s.next (mk op)) s = .ok (ea, t) → s.readByte ea = .ok v →
      s.params.isCode ea = false →
      ∃ m, exec (mk op) s = .next { stepOf op.form s with
          mem := m, ccr := (f v s.ccr).2, pc := s.pc + BitVec.ofNat 16 (mk op).length } ∧
        Memory.get m ea = some (f v s.ccr).1 ∧ (∀ a, a ≠ ea → Memory.get m a = Memory.get s.mem a)) ∧
    (∀ ea t v, RmwOp.ea op (s.next (mk op)) s = .ok (ea, t) → s.readByte ea = .ok v →
      s.params.isCode ea = true → exec (mk op) s = .fault (.storeToCode ea)) ∧
    (∀ ea t e, RmwOp.ea op (s.next (mk op)) s = .ok (ea, t) → s.readByte ea = .error e →
      exec (mk op) s = .fault e) ∧
    (∀ e, RmwOp.ea op (s.next (mk op)) s = .error e → exec (mk op) s = .fault e)

/-- A branch: it completes in every state, only the pc changes, to `next + offset` when the condition holds of the
flags and to `next` when it does not (45_branch.md R320). -/
def IsBranch (i : Instr) (cond : Ccr → Bool) (offset : Word) : Prop :=
  ∀ s, exec i s = .next { s with
    pc := s.pc + BitVec.ofNat 16 i.length + (if cond s.ccr then offset else 0#16) }

/-! ## Which flags a branch reads -/

/-- A short or long branch, or BRSET. -/
def isBranchInstr : Instr → Bool
  | .brn _ | .bra _ | .bcc _ | .bcs _ | .beq _ | .bne _ | .bmi _ | .bpl _ | .bvs _ | .bvc _ | .bhs _ | .bhi _
  | .bls _ | .blo _ | .bge _ | .bgt _ | .ble _ | .blt _ | .lbrn _ | .lbra _ | .lbcc _ | .lbcs _ | .lbeq _
  | .lbne _ | .lbmi _ | .lbpl _ | .lbvs _ | .lbvc _ | .lbhs _ | .lbhi _ | .lbls _ | .lblo _ | .lbge _ | .lbgt _
  | .lble _ | .lblt _ | .brset .. => true
  | _ => false

/-- The flags that the condition of a branch names, with their values (45_branch.md R321 to R358). -/
def namedFlags (f : Ccr) : Instr → List Bool
  | .bcc _ | .bcs _ | .bhs _ | .blo _ | .lbcc _ | .lbcs _ | .lbhs _ | .lblo _ => [f.c]
  | .beq _ | .bne _ | .lbeq _ | .lbne _ => [f.z]
  | .bmi _ | .bpl _ | .lbmi _ | .lbpl _ => [f.n]
  | .bvs _ | .bvc _ | .lbvs _ | .lbvc _ => [f.v]
  | .bhi _ | .bls _ | .lbhi _ | .lbls _ => [f.c, f.z]
  | .bge _ | .blt _ | .lbge _ | .lblt _ => [f.n, f.v]
  | .bgt _ | .ble _ | .lbgt _ | .lble _ => [f.z, f.n, f.v]
  | _ => []

end Sys2Proof.Machine
end

