-- ==== Sys2Proof/Certificates/Slice0/Obligations.lean ====
section
/-! DEFINITION. The statements for the provers. -/

section

open Sys2Proof Sys2Proof.Machine

/-! ## Encoding -/

/-- Decoding the bytes of a well-formed instruction gives it back, under the name that opcode_table.json gives
without `alias_of`, and the bytes after it untouched (30_encoding.md R80 to R82, R100 to R107, R121 to R124). -/
def Obligations.DecodeOfEncode : Prop :=
  ∀ (i : Instr) (rest : List Byte), i.wellFormed = true → decode (encode i ++ rest) = .instr i.canon rest

/-- What the decoder reads as an instruction are exactly the bytes of that instruction, 1 to 6 of them: no bit is
dropped, and only well-formed instructions are read. Eight bytes always decide: six for an instruction, up to eight for
a MOV whose postbytes take extension bytes, which is then refused (30_encoding.md R80 to R82, R125, R131;
60_exceptions.md R426; log 12). -/
def Obligations.EncodeOfDecode : Prop :=
  (∀ (bytes rest : List Byte) (i : Instr), decode bytes = .instr i rest →
    bytes = encode i ++ rest ∧ i.wellFormed = true ∧ i.canon = i ∧ 1 ≤ i.length ∧ i.length ≤ 6) ∧
  (∀ bytes : List Byte, 8 ≤ bytes.length → decode bytes ≠ .more)

/-- The bytes of an excluded operand form are refused by the decoder (30_encoding.md R131). The model's choices: the
meaning of the instruction refuses it too (log 12), and the refusal carries the instruction's encoding (log 13). -/
def Obligations.ExcludedFormsRefused : Prop :=
  ∀ (i : Instr) (rest : List Byte) (s : State), i.wellFormed = false →
    decode (encode i ++ rest) = .refused ∧ exec i s = .refused (.noInstruction (encode i))

/-- Which operand forms are excluded, and no others: an auto form on the register that LDX, LDY, LDS, STX, STY, STS,
CPX, CPY, CPS or JSR itself uses (30_encoding.md R105); an indirect form or a PC base in BSET, BCLR, BRSET (R108,
R114); in MOVB and MOVW a form with extension bytes, an indirect form, a PC base (R108, R125), or two auto forms on one
register (92_eei_decisions.md D21). -/
def Obligations.ExcludedForms : Prop :=
  ∀ i : Instr, i.wellFormed = false ↔
    (∃ m n, i = .ldx (.idx (.auto .x m n)) ∨ i = .cpx (.idx (.auto .x m n)) ∨ i = .stx (.idx (.auto .x m n)) ∨
      i = .ldy (.idx (.auto .y m n)) ∨ i = .cpy (.idx (.auto .y m n)) ∨ i = .sty (.idx (.auto .y m n)) ∨
      i = .lds (.idx (.auto .sp m n)) ∨ i = .cps (.idx (.auto .sp m n)) ∨ i = .sts (.idx (.auto .sp m n)) ∨
      i = .jsr (.idx (.auto .sp m n))) ∨
    (∃ f mask rel, (f.indirect = true ∨ f.pcBased = true) ∧
      (i = .bset (.idx f) mask ∨ i = .bclr (.idx f) mask ∨ i = .brset (.idx f) mask rel)) ∨
    (∃ f, (f.extBytes ≠ 0 ∨ f.indirect = true ∨ f.pcBased = true) ∧
      ((∃ dst, i = .movb (.idx f) dst ∨ i = .movw (.idx f) dst) ∨
        (∃ src, i = .movb src (.idx f)) ∨ (∃ src, i = .movw src (.idx f)))) ∨
    (∃ r m n m' n', i = .movb (.idx (.auto r m n)) (.idx (.auto r m' n')) ∨
      i = .movw (.idx (.auto r m n)) (.idx (.auto r m' n')))

/-- The decode of the postbyte is total: every postbyte selects exactly one form, whose bytes are that postbyte and
its extension bytes (30_encoding.md R100). -/
def Obligations.PostbyteTotal : Prop :=
  ∀ (xb ee ff : Byte) (rest : List Byte), ∃! f : IdxForm,
    (∀ k : IdxForm → Reader, idx k (xb :: ee :: ff :: rest) = k f ((ee :: ff :: rest).drop f.extBytes)) ∧
    f.bytes = xb :: [ee, ff].take f.extBytes

/-- The postbyte map of 30_encoding.md R113, row by row. -/
def Obligations.PostbyteMap : Prop :=
  (∀ p ∈ [(0x00, BaseReg.x), (0x40, .y), (0x80, .sp), (0xC0, .pc)],
    (∀ n < 16, IdxForm.ofPostbyte (BitVec.ofNat 8 (p.1 + n)) = some (.off5 p.2 (BitVec.ofNat 5 n))) ∧
    (∀ n < 16, IdxForm.ofPostbyte (BitVec.ofNat 8 (p.1 + 0x10 + n)) =
      some (.off5 p.2 (BitVec.ofInt 5 ((n : Int) - 16))))) ∧
  (∀ p ∈ [(0x20, AutoReg.x), (0x60, .y), (0xA0, .sp)], ∀ k < 8,
    (∃ n, IdxForm.ofPostbyte (BitVec.ofNat 8 (p.1 + k)) = some (.auto p.2 .pre n) ∧ autoAdj n = k + 1) ∧
    (∃ n, IdxForm.ofPostbyte (BitVec.ofNat 8 (p.1 + 8 + k)) = some (.auto p.2 .pre n) ∧ autoAdj n = (k : Int) - 8) ∧
    (∃ n, IdxForm.ofPostbyte (BitVec.ofNat 8 (p.1 + 16 + k)) = some (.auto p.2 .post n) ∧ autoAdj n = k + 1) ∧
    (∃ n, IdxForm.ofPostbyte (BitVec.ofNat 8 (p.1 + 24 + k)) = some (.auto p.2 .post n) ∧
      autoAdj n = (k : Int) - 8)) ∧
  (∀ p ∈ [(0xE0, BaseReg.x), (0xE8, .y), (0xF0, .sp), (0xF8, .pc)],
    (∀ ee rest, ∀ k : IdxForm → Reader,
      idx k (BitVec.ofNat 8 p.1 :: ee :: rest) = k (.off9 p.2 (0#1 ++ ee)) rest ∧
      idx k (BitVec.ofNat 8 (p.1 + 1) :: ee :: rest) = k (.off9 p.2 (1#1 ++ ee)) rest) ∧
    (∀ ee ff rest, ∀ k : IdxForm → Reader,
      idx k (BitVec.ofNat 8 (p.1 + 2) :: ee :: ff :: rest) = k (.off16 p.2 (join ee ff)) rest ∧
      idx k (BitVec.ofNat 8 (p.1 + 3) :: ee :: ff :: rest) = k (.ind16 p.2 (join ee ff)) rest) ∧
    IdxForm.ofPostbyte (BitVec.ofNat 8 (p.1 + 4)) = some (.acc p.2 .a) ∧
    IdxForm.ofPostbyte (BitVec.ofNat 8 (p.1 + 5)) = some (.acc p.2 .b) ∧
    IdxForm.ofPostbyte (BitVec.ofNat 8 (p.1 + 6)) = some (.acc p.2 .d) ∧
    IdxForm.ofPostbyte (BitVec.ofNat 8 (p.1 + 7)) = some (.indD p.2)) ∧
  (∀ ee : Byte, (0#1 ++ ee).toInt = ee.toNat ∧ (1#1 ++ ee).toInt = (ee.toNat : Int) - 256)

/-- The nine two-byte patterns, and every other second byte after $1A, $19, $1B, $B7 refused
(30_encoding.md R123). -/
def Obligations.FixedSecondBytes : Prop :=
  Decodes [0x1A#8, 0xE5#8] .abx ∧ Decodes [0x19#8, 0xED#8] .aby ∧ Decodes [0x1B#8, 0x9F#8] .des ∧
  Decodes [0x1B#8, 0x81#8] .ins ∧ Decodes [0xB7#8, 0x02#8] .tap ∧ Decodes [0xB7#8, 0x20#8] .tpa ∧
  Decodes [0x10#8, 0xFE#8] .clc ∧ Decodes [0x10#8, 0xEF#8] .cli ∧ Decodes [0x10#8, 0xFD#8] .clv ∧
  (∀ b, b ≠ 0xE5#8 → NotDecoded [0x1A#8, b]) ∧ (∀ b, b ≠ 0xED#8 → NotDecoded [0x19#8, b]) ∧
  (∀ b, b ≠ 0x9F#8 → b ≠ 0x81#8 → NotDecoded [0x1B#8, b]) ∧
  (∀ b, b ≠ 0x02#8 → b ≠ 0x20#8 → NotDecoded [0xB7#8, b])

/-- The encodings that the source prints (30_encoding.md R120; 48_assembler_directives.md R394;
70_reset_and_hazards.md R460). A sanity statement. -/
def Obligations.PrintedEncodings : Prop :=
  Decodes [0xCE#8, 0x10#8, 0x00#8] (.ldx (.imm 0x1000#16)) ∧
  Decodes [0xF6#8, 0x44#8, 0x00#8] (.ldab (.ext 0x4400#16)) ∧
  Decodes [0x86#8, 0x00#8] (.ldaa (.imm 0x00#8)) ∧
  Decodes [0x81#8, 0x0A#8] (.cmpa (.imm 0x0A#8)) ∧
  Decodes [0x27#8, 0x06#8] (.beq 0x06#8) ∧
  Decodes [0xEB#8, 0x00#8] (.addb (.idx (.off5 .x 0#5))) ∧
  Decodes [0x08#8] .inx ∧ Decodes [0x42#8] .inca ∧ Decodes [0x3F#8] .swi ∧
  Decodes [0x20#8, 0xF6#8] (.bra 0xF6#8) ∧
  Decodes [0x7B#8, 0x44#8, 0x00#8] (.stab (.ext 0x4400#16)) ∧
  Decodes [0x0E#8, 0xE4#8, 0x01#8, 0x0B#8] (.brset (.idx (.acc .x .a)) 0x01#8 0x0B#8) ∧
  Decodes [0x0C#8, 0xE4#8, 0x03#8] (.bset (.idx (.acc .x .a)) 0x03#8) ∧
  Decodes [0x0D#8, 0xE4#8, 0x0C#8] (.bclr (.idx (.acc .x .a)) 0x0C#8) ∧
  Decodes [0xE6#8, 0xE4#8] (.ldab (.idx (.acc .x .a))) ∧
  Decodes [0xA6#8, 0xE8#8, 0xFF#8] (.ldaa (.idx (.off9 .y 255#9))) ∧
  Decodes [0xA6#8, 0xFA#8, 0x10#8, 0x00#8] (.ldaa (.idx (.off16 .pc 0x1000#16))) ∧
  Decodes [0xA6#8, 0xE3#8, 0x10#8, 0x00#8] (.ldaa (.idx (.ind16 .x 0x1000#16))) ∧
  Decodes [0xEE#8, 0xFF#8] (.ldx (.idx (.indD .pc)))

/-- Two names of one encoding mean the same (30_encoding.md R124; 48_assembler_directives.md R396). -/
def Obligations.AliasesAgree : Prop :=
  ∀ (i : Instr) (s : State), encode i.canon = encode i ∧ exec i s = exec i.canon s

/-! ## Steps -/

/-- When the bytes at the pc are exactly an instruction, the step is that instruction's meaning at that state
(20_memory.md R67; 60_exceptions.md R420). -/
def Obligations.StepRunsDecoded : Prop :=
  ∀ (s : State) (bytes : List Byte) (i : Instr), s.over = false → BytesAt s s.pc bytes →
    decode bytes = .instr i [] → Machine.step s = exec i s

/-- A fetch that fails is the step's fault. Bytes that the decoder refuses are refused by the step once the last of them
is read: a byte in no row of the opcode table, a second byte after $18, $1A, $19, $1B, $B7 in no row, an excluded postbyte
form when all its bytes are read (20_memory.md R66, R67; 30_encoding.md R123, R131; 60_exceptions.md R426). The model's
choice (log 13): the refusal carries the bytes read. -/
def Obligations.StepStopsAtTheFetch : Prop :=
  ∀ s : State, s.over = false →
    (∀ bytes e, BytesAt s s.pc bytes → decode bytes = .more →
      s.fetchByte (s.pc + BitVec.ofNat 16 bytes.length) = .error e → Machine.step s = .fault e) ∧
    (∀ bytes b, BytesAt s s.pc bytes → decode bytes = .more →
      s.fetchByte (s.pc + BitVec.ofNat 16 bytes.length) = .ok b → decode (bytes ++ [b]) = .refused →
      Machine.step s = .refused (.noInstruction (bytes ++ [b])))

/-- Only SWI ends a run; it changes no register, no flag and no byte, and the pc stays at it (60_exceptions.md R421,
R425). The model's choice (log 8): the ended run is a next state with `halted` set, and neither it nor a state at a
halt address (70_reset_and_hazards.md R457) has a further step. -/
def Obligations.OnlySwiEndsTheRun : Prop :=
  (∀ s : State, exec .swi s = .next { s with halted := true }) ∧
  (∀ (i : Instr) (s t : State), exec i s = .next t → i ≠ .swi → t.halted = s.halted) ∧
  (∀ s : State, (s.halted = true ∨ s.pc ∈ s.params.haltAddrs) → Machine.step s = .fault .runOver)

/-! ## Reset -/

/-- The model's choices (logs 1 to 5): the state after reset. The spec gives the pc the parameter ENTRY
(10_state.md R36), leaves every other register and flag without a value, and memory with nothing loaded. -/
def Obligations.ResetState : Prop :=
  State.reset.pc = 0x4000#16 ∧ State.reset.a = 0x00#8 ∧ State.reset.b = 0x00#8 ∧ State.reset.x = 0x0000#16 ∧
  State.reset.y = 0x0000#16 ∧ State.reset.sp = 0x0000#16 ∧ State.reset.ccr.toByte = 0xD0#8 ∧
  State.reset.halted = false ∧ (∀ a, State.reset.readByte a = .error (.unwritten a)) ∧
  Machine.step State.reset = .fault (.unwritten 0x4000#16)

/-- The invariant holds after reset and after every launch from load records, and every byte loaded as part of an
instruction is then in memory what it was at launch (20_memory.md R66). -/
def Obligations.ResetHasInvariant : Prop :=
  State.reset.Inv ∧ CodeAsLaunched State.reset ∧
  ∀ (p : Params) (entry : Word) (rs : List Record),
    (State.launch p entry (loadRecords rs [])).Inv ∧ CodeAsLaunched (State.launch p entry (loadRecords rs []))

/-! ## Invariants of every step -/

/-- Every step keeps the canonical form of memory and of the launch image, from every state that has it. -/
def Obligations.StepKeepsInvariant : Prop :=
  ∀ s t : State, s.Inv → Machine.step s = .next t → t.Inv

/-- No step changes a parameter of the run (10_state.md R35) or a byte that was loaded as part of an instruction: the fetch
of such a byte goes on reading its launch byte (20_memory.md R66); and none takes a byte's value away (R60, R62). -/
def Obligations.StepKeepsProgram : Prop :=
  ∀ s t : State, Machine.step s = .next t →
    t.params = s.params ∧ CodeIntact s t ∧ (∀ a, s.params.isCode a = true → t.fetchByte a = s.fetchByte a) ∧
    (CodeAsLaunched s → CodeAsLaunched t ∧ ∀ a v, s.params.mapped a = true → s.params.isCode a = true →
      Memory.get s.params.image a = some v → t.fetchByte a = .ok v) ∧ ∀ a v, s.readByte a = .ok v → ∃ w, t.readByte a = .ok w

/-- Who can write H, I, CCR.X and CCR.S (00_scope.md R17). The rule rests on the spec's own decision
92_eei_decisions.md D27: a flag for which a table has no column is not changed. -/
def Obligations.WritersOfMaskBits : Prop :=
  ∀ (i : Instr) (s t : State), exec i s = .next t →
    (t.ccr.h ≠ s.ccr.h →
      i = .aba ∨ (∃ src, i = .adda src) ∨ (∃ src, i = .addb src) ∨ (∃ src, i = .adca src) ∨ (∃ src, i = .adcb src) ∨
      i = .abx ∨ i = .aby ∨ i = .tap ∨ (∃ m, i = .andcc m) ∨ (∃ m, i = .orcc m)) ∧
    (t.ccr.i ≠ s.ccr.i → i = .cli ∨ i = .tap ∨ (∃ m, i = .andcc m) ∨ (∃ m, i = .orcc m)) ∧
    (t.ccr.x ≠ s.ccr.x ∨ t.ccr.s ≠ s.ccr.s → i = .tap ∨ (∃ m, i = .andcc m) ∨ (∃ m, i = .orcc m))

/-- With XBIT_STICKY, once CCR.X is clear no step sets it again (10_state.md R31). -/
def Obligations.ClearXStaysClear : Prop :=
  ∀ s t : State, s.params.xbitSticky = true → s.ccr.x = false → Machine.step s = .next t → t.ccr.x = false

/-- No branch writes a flag, taken or not; a conditional branch reads only the flags its condition names
(45_branch.md R359). -/
def Obligations.BranchesAndFlags : Prop :=
  ∀ (i : Instr) (s t : State), isBranchInstr i = true → exec i s = .next t →
    t.ccr = s.ccr ∧
    ∀ f : Ccr, namedFlags f i = namedFlags s.ccr i → exec i { s with ccr := f } = .next { t with ccr := f }

/-! ## Memory -/

/-- Byte order: the high byte of a 16-bit value is at `a`, the low byte at `a + 1`, for reads and for writes;
and a 16-bit field of an instruction has its high byte first (20_memory.md R53). -/
def Obligations.BigEndian : Prop :=
  (∀ (s : State) (a : Word) (v : Word),
    s.readWord a = .ok v ↔ ∃ hi lo, s.readByte a = .ok hi ∧ s.readByte (a + 1#16) = .ok lo ∧
      v.toNat = 256 * hi.toNat + lo.toNat) ∧
  (∀ (s t : State) (a : Word) (v : Word), s.writeWord a v = .ok t →
    ∃ hi lo : Byte, v.toNat = 256 * hi.toNat + lo.toNat ∧
      t.readByte a = .ok hi ∧ t.readByte (a + 1#16) = .ok lo) ∧
  (∀ (hi lo : Byte) (rest : List Byte) (k : Word → Reader),
    ∃ v : Word, v.toNat = 256 * hi.toNat + lo.toNat ∧ word k (hi :: lo :: rest) = k v rest)

/-- A load after a store to the same address sees that store, at every address, $FFFF to $0000 included
(20_memory.md R51, R55, R62): STD then LDD at any address gives D back; `STAA 1,-SP` and `LDAA 1,SP+` push and pull A,
whatever A held in between (70_reset_and_hazards.md R455). -/
def Obligations.LoadSeesTheStore : Prop :=
  (∀ (s : State) (a : Word), s.params.mapped a = true → s.params.isCode a = false →
    s.params.mapped (a + 1#16) = true → s.params.isCode (a + 1#16) = false →
    ∃ t u, exec (.std (.ext a)) s = .next t ∧ exec (.ldd (.ext a)) t = .next u ∧ u.d = s.d ∧
      t.readWord a = .ok s.d ∧ ∀ b, b ≠ a → b ≠ a + 1#16 → t.readByte b = s.readByte b) ∧
  (∀ s : State, s.params.mapped (s.sp - 1#16) = true → s.params.isCode (s.sp - 1#16) = false →
    ∃ t, exec (.staa (.idx (.auto .sp .pre 15#4))) s = .next t ∧ t.sp = s.sp - 1#16 ∧
      t.readByte (s.sp - 1#16) = .ok s.a ∧
      ∀ w : Byte, ∃ u, exec (.ldaa (.idx (.auto .sp .post 0#4))) { t with a := w } = .next u ∧
        u.a = s.a ∧ u.sp = s.sp)

/-- When an access faults, and with which reason (20_memory.md R60, R66). A byte that nothing has written has no
value. A byte that is written can be read and fetched: there is one memory (10_state.md R33; 20_memory.md R67). -/
def Obligations.AccessFaults : Prop :=
  ∀ (s : State) (a : Word) (v : Byte),
    (s.params.mapped a = false → s.readByte a = .error (.unmapped a) ∧ s.writeByte a v = .error (.unmapped a)) ∧
    (s.params.mapped a = true → Memory.get s.mem a = none → s.readByte a = .error (.unwritten a)) ∧
    (s.params.mapped a = true → s.params.isCode a = true → s.writeByte a v = .error (.storeToCode a)) ∧
    (s.params.mapped a = true → s.params.isCode a = false →
      ∃ t, s.writeByte a v = .ok t ∧ t.readByte a = .ok v ∧ t.fetchByte a = .ok v) ∧
    s.fetchByte a = s.readByte a

/-! ## Addressing -/

/-- Direct, extended and relative addressing (30_encoding.md R86, R87, R88). -/
def Obligations.DirectExtendedRelative : Prop :=
  ∀ (s : State) (next : Word),
    (∀ dd : Byte, MemOp.ea (.dir dd) next s = .ok (BitVec.ofNat 16 dd.toNat, s)) ∧
    (∀ hl : Word, MemOp.ea (.ext hl) next s = .ok (hl, s) ∧ RmwOp.ea (.ext hl) next s = .ok (hl, s)) ∧
    (∀ rr : Byte, exec (.bra rr) s = .next { s with pc := s.pc + 2#16 + BitVec.ofInt 16 rr.toInt }) ∧
    (∀ qr : Word, exec (.lbra qr) s = .next { s with pc := s.pc + 4#16 + qr })

/-- Constant offsets of 5, 9 and 16 bits: encoding, effective address, and nothing changed
(30_encoding.md R101, R102, R103); what the base is for each of X, Y, SP and PC (R100, R108). That the base of PC is
`next`, the address after the instruction, is no word of the source: it is the spec's own decision 92_eei_decisions.md
D18, taken from general knowledge (G5; log 15). -/
def Obligations.ConstantOffsets : Prop :=
  ∀ (s : State) (next : Word) (r : BaseReg),
    (s.base next .x = s.x ∧ s.base next .y = s.y ∧ s.base next .sp = s.sp ∧ s.base next .pc = next) ∧
    (BaseReg.bits .x = 0#2 ∧ BaseReg.bits .y = 1#2 ∧ BaseReg.bits .sp = 2#2 ∧ BaseReg.bits .pc = 3#2) ∧
    (∀ n : BitVec 5, IdxForm.bytes (.off5 r n) = [r.bits ++ 0#1 ++ n] ∧
      IdxForm.ea (.off5 r n) next s = .ok (s.base next r + BitVec.ofInt 16 n.toInt, s)) ∧
    (∀ n : BitVec 9, IdxForm.bytes (.off9 r n) = [7#3 ++ r.bits ++ 0#2 ++ n.extractLsb' 8 1, n.extractLsb' 0 8] ∧
      IdxForm.ea (.off9 r n) next s = .ok (s.base next r + BitVec.ofInt 16 n.toInt, s)) ∧
    (∀ n : Word, IdxForm.bytes (.off16 r n) = [7#3 ++ r.bits ++ 2#3, hiByte n, loByte n] ∧
      IdxForm.ea (.off16 r n) next s = .ok (s.base next r + n, s))

/-- The indirect forms, whose pointer is the 16-bit value in memory at the sum, and the accumulator offsets, A and B
unsigned, D 16 bits: encoding, effective address, and nothing changed (30_encoding.md R104, R106, R107). -/
def Obligations.IndirectAndAccumulatorForms : Prop :=
  ∀ (s : State) (next : Word) (r : BaseReg),
    (∀ n : Word, IdxForm.bytes (.ind16 r n) = [7#3 ++ r.bits ++ 3#3, hiByte n, loByte n] ∧
      (∀ p, s.readWord (s.base next r + n) = .ok p → IdxForm.ea (.ind16 r n) next s = .ok (p, s)) ∧
      (∀ e, s.readWord (s.base next r + n) = .error e → IdxForm.ea (.ind16 r n) next s = .error e)) ∧
    IdxForm.bytes (.indD r) = [7#3 ++ r.bits ++ 7#3] ∧
    (∀ p, s.readWord (s.base next r + s.d) = .ok p → IdxForm.ea (.indD r) next s = .ok (p, s)) ∧
    (∀ e, s.readWord (s.base next r + s.d) = .error e → IdxForm.ea (.indD r) next s = .error e) ∧
    (∀ o, IdxForm.bytes (.acc r o) = [7#3 ++ r.bits ++ 1#1 ++ o.bits]) ∧
    IdxForm.ea (.acc r .a) next s = .ok (s.base next r + BitVec.ofNat 16 s.a.toNat, s) ∧
    IdxForm.ea (.acc r .b) next s = .ok (s.base next r + BitVec.ofNat 16 s.b.toNat, s) ∧
    IdxForm.ea (.acc r .d) next s = .ok (s.base next r + s.d, s)

/-- The auto forms: the 16 values of the step, the address taken after a pre step and before a post step, and nothing
but the base register changed (30_encoding.md R105); the base register is X, Y or SP. -/
def Obligations.AutoForms : Prop :=
  (∀ n : BitVec 4, (n.toNat < 8 → autoAdj n = n.toNat + 1) ∧ (8 ≤ n.toNat → autoAdj n = (n.toNat : Int) - 16)) ∧
  ∀ (s : State) (next : Word) (r : AutoReg) (n : BitVec 4),
    (∃ t, IdxForm.ea (.auto r .pre n) next s = .ok (t.auto r, t) ∧ t = stepOf (some (.auto r .pre n)) s ∧
      t.auto r = s.auto r + BitVec.ofInt 16 (autoAdj n)) ∧
    (∃ t, IdxForm.ea (.auto r .post n) next s = .ok (s.auto r, t) ∧ t = stepOf (some (.auto r .post n)) s ∧
      t.auto r = s.auto r + BitVec.ofInt 16 (autoAdj n)) ∧
    (s.auto .x = s.x ∧ s.auto .y = s.y ∧ s.auto .sp = s.sp) ∧
    (∀ m, (stepOf (some (.auto r m n)) s).a = s.a ∧ (stepOf (some (.auto r m n)) s).b = s.b ∧
      (stepOf (some (.auto r m n)) s).ccr = s.ccr ∧ (stepOf (some (.auto r m n)) s).mem = s.mem ∧
      (∀ q, q ≠ r → (stepOf (some (.auto r m n)) s).auto q = s.auto q))

/-- Effective addresses and source operands of every kind: an indexed operand's address is that of its form; a source is
the immediate field, or what memory holds at the effective address, 8 or 16 bits; the state after is the one after the
address; a fault of the address or of the read is the operand's (30_encoding.md R109 to R112; 40_data_transfer.md R156,
R157). -/
def Obligations.SourceOperands : Prop :=
  ∀ (s : State) (next : Word),
    (∀ f : IdxForm, MemOp.ea (.idx f) next s = IdxForm.ea f next s ∧ RmwOp.ea (.idx f) next s = IdxForm.ea f next s ∧
      MovDst.ea (.idx f) next s = IdxForm.ea f next s) ∧
    (∀ hl : Word, MovDst.ea (.ext hl) next s = .ok (hl, s)) ∧
    (∀ v : Byte, MovSrc8.read (.imm v) next s = .ok (v, s)) ∧
    (∀ v : Word, MovSrc16.read (.imm v) next s = .ok (v, s)) ∧
    (∀ (op : RmwOp) (src : MovSrc8) (src' : MovSrc16),
      (src = match op with | .ext a => .ext a | .idx f => .idx f) →
      (src' = match op with | .ext a => .ext a | .idx f => .idx f) →
      (∀ (ea : Word) (t : State), RmwOp.ea op next s = .ok (ea, t) →
        t = stepOf op.form s ∧ t.mem = s.mem ∧
        (∀ v, s.readByte ea = .ok v → RmwOp.read op next s = .ok (v, t) ∧ MovSrc8.read src next s = .ok (v, t)) ∧
        (∀ e, s.readByte ea = .error e → RmwOp.read op next s = .error e ∧ MovSrc8.read src next s = .error e) ∧
        (∀ v, s.readWord ea = .ok v → MovSrc16.read src' next s = .ok (v, t)) ∧
        (∀ e, s.readWord ea = .error e → MovSrc16.read src' next s = .error e)) ∧
      (∀ e, RmwOp.ea op next s = .error e → RmwOp.read op next s = .error e ∧ MovSrc8.read src next s = .error e ∧
        MovSrc16.read src' next s = .error e)) ∧
    (∀ v : Byte, Src8.read (.imm v) next s = .ok (v, s)) ∧ (∀ v : Word, Src16.read (.imm v) next s = .ok (v, s)) ∧
    (∀ (op : MemOp) (src : Src8) (src' : Src16),
      (src = match op with | .dir d => .dir d | .ext a => .ext a | .idx f => .idx f) →
      (src' = match op with | .dir d => .dir d | .ext a => .ext a | .idx f => .idx f) →
      (∀ (ea : Word) (t : State), MemOp.ea op next s = .ok (ea, t) →
        t = stepOf op.form s ∧ t.mem = s.mem ∧
        (∀ v, s.readByte ea = .ok v → Src8.read src next s = .ok (v, t)) ∧
        (∀ e, s.readByte ea = .error e → Src8.read src next s = .error e) ∧
        (∀ v, s.readWord ea = .ok v → Src16.read src' next s = .ok (v, t)) ∧
        (∀ e, s.readWord ea = .error e → Src16.read src' next s = .error e)) ∧
      (∀ e, MemOp.ea op next s = .error e → Src8.read src next s = .error e ∧ Src16.read src' next s = .error e))

/-! ## The arithmetic laws -/

/-- N and Z, and the 8-bit and 16-bit additions (00_scope.md R11, R12, R14). -/
def Obligations.AdditionLaws : Prop :=
  (∀ (f : Ccr) (r : Byte), (f.nz8 r).n = r.getLsbD 7 ∧ ((f.nz8 r).z = true ↔ r = 0x00#8)) ∧
  (∀ (f : Ccr) (r : Word), (f.nz16 r).n = r.getLsbD 15 ∧ ((f.nz16 r).z = true ↔ r = 0x0000#16)) ∧
  (∀ (a b : Byte) (cin : Bool) (f : Ccr), ∃ r g, add8 a b cin f = (r, g) ∧
    r.toNat = (a.toNat + b.toNat + cin.toNat) % 256 ∧
    (g.h = true ↔ a.toNat % 16 + b.toNat % 16 + cin.toNat > 15) ∧
    (g.c = true ↔ a.toNat + b.toNat + cin.toNat > 255) ∧
    (g.v = true ↔ a.getLsbD 7 = b.getLsbD 7 ∧ r.getLsbD 7 ≠ a.getLsbD 7) ∧
    g.n = r.getLsbD 7 ∧ (g.z = true ↔ r = 0x00#8) ∧ g.i = f.i ∧ g.x = f.x ∧ g.s = f.s) ∧
  (∀ (a b : Word) (f : Ccr), ∃ r g, add16 a b f = (r, g) ∧
    r.toNat = (a.toNat + b.toNat) % 65536 ∧
    (g.c = true ↔ a.toNat + b.toNat > 65535) ∧
    (g.v = true ↔ a.getLsbD 15 = b.getLsbD 15 ∧ r.getLsbD 15 ≠ a.getLsbD 15) ∧
    g.n = r.getLsbD 15 ∧ (g.z = true ↔ r = 0x0000#16) ∧ g.h = f.h ∧ g.i = f.i ∧ g.x = f.x ∧ g.s = f.s)

/-- The 8-bit and 16-bit subtractions; C is the borrow (00_scope.md R13, R15). -/
def Obligations.SubtractionLaws : Prop :=
  (∀ (a b : Byte) (bin : Bool) (f : Ccr), ∃ r g, sub8 a b bin f = (r, g) ∧
    (r.toNat : Int) = ((a.toNat : Int) - b.toNat - bin.toNat) % 256 ∧
    (g.c = true ↔ a.toNat < b.toNat + bin.toNat) ∧
    (g.v = true ↔ a.getLsbD 7 ≠ b.getLsbD 7 ∧ r.getLsbD 7 ≠ a.getLsbD 7) ∧
    g.n = r.getLsbD 7 ∧ (g.z = true ↔ r = 0x00#8) ∧ g.h = f.h ∧ g.i = f.i ∧ g.x = f.x ∧ g.s = f.s) ∧
  (∀ (a b : Word) (f : Ccr), ∃ r g, sub16 a b f = (r, g) ∧
    (r.toNat : Int) = ((a.toNat : Int) - b.toNat) % 65536 ∧
    (g.c = true ↔ a.toNat < b.toNat) ∧
    (g.v = true ↔ a.getLsbD 15 ≠ b.getLsbD 15 ∧ r.getLsbD 15 ≠ a.getLsbD 15) ∧
    g.n = r.getLsbD 15 ∧ (g.z = true ↔ r = 0x0000#16) ∧ g.h = f.h ∧ g.i = f.i ∧ g.x = f.x ∧ g.s = f.s)

/-- V records exactly that the signed result does not fit (00_scope.md R12 to R16). -/
def Obligations.OverflowIsSigned : Prop :=
  (∀ (a b : Byte) (cin : Bool) (f : Ccr),
    ((add8 a b cin f).2.v = true ↔ ¬ (-128 ≤ a.toInt + b.toInt + cin.toNat ∧ a.toInt + b.toInt + cin.toNat ≤ 127)) ∧
    ((sub8 a b cin f).2.v = true ↔ ¬ (-128 ≤ a.toInt - b.toInt - cin.toNat ∧ a.toInt - b.toInt - cin.toNat ≤ 127))) ∧
  (∀ (a b : Word) (f : Ccr),
    ((add16 a b f).2.v = true ↔ ¬ (-32768 ≤ a.toInt + b.toInt ∧ a.toInt + b.toInt ≤ 32767)) ∧
    ((sub16 a b f).2.v = true ↔ ¬ (-32768 ≤ a.toInt - b.toInt ∧ a.toInt - b.toInt ≤ 32767)))

/-- The one-operand operations agree with the laws: INC and DEC with adding and subtracting 1 but for C (and H), NEG
with subtracting from 0, TST with subtracting 0, COM with exclusive OR (42_arithmetic.md R224, R230; 43_logic_bit.md
R271, R274; 44_data_test.md R307). -/
def Obligations.OneOperandLaws : Prop :=
  ∀ (m : Byte) (f : Ccr),
    inc8 m f = ((add8 m 1#8 false f).1, { (add8 m 1#8 false f).2 with c := f.c, h := f.h }) ∧
    dec8 m f = ((sub8 m 1#8 false f).1, { (sub8 m 1#8 false f).2 with c := f.c }) ∧
    neg8 m f = sub8 0x00#8 m false f ∧
    f.test m = (sub8 m 0x00#8 false f).2 ∧
    com8 m f = (m ^^^ 0xFF#8, { f.logic8 (m ^^^ 0xFF#8) with c := true })

/-- Shifts as arithmetic: a left shift doubles, a logical right shift halves, an arithmetic right shift halves rounding
toward minus infinity, and C is what falls out (41_shift_rotate.md R180, R183, R184, R187, R192, R201). The flags of
every shift and rotate: N the top bit of the result, Z that it is zero, C the bit that falls out, V = N exclusive-or C,
and H, I, CCR.X, CCR.S unchanged (R201). -/
def Obligations.ShiftsAsArithmetic : Prop :=
  (∀ (f : Ccr) (r : Byte) (out : Bool), f.shift8 r out = { f with
    n := r.getLsbD 7, z := decide (r = 0x00#8), v := r.getLsbD 7 ^^ out, c := out }) ∧
  (∀ (f : Ccr) (r : Word) (out : Bool), f.shift16 r out = { f with
    n := r.getLsbD 15, z := decide (r = 0x0000#16), v := r.getLsbD 15 ^^ out, c := out }) ∧
  (∀ (m : Byte) (f : Ccr),
    (lsl8 m f).1.toNat + 256 * (lsl8 m f).2.c.toNat = 2 * m.toNat ∧
    2 * (lsr8 m f).1.toNat + (lsr8 m f).2.c.toNat = m.toNat ∧
    2 * (asr8 m f).1.toInt + (asr8 m f).2.c.toNat = m.toInt ∧
    (lsl8 m f).2.v = ((lsl8 m f).2.n ^^ (lsl8 m f).2.c) ∧ (lsr8 m f).2.n = false ∧
    (lsr8 m f).2.v = (lsr8 m f).2.c ∧ (asr8 m f).2.v = ((asr8 m f).2.n ^^ (asr8 m f).2.c)) ∧
  (∀ (m : Word) (f : Ccr),
    (lsl16 m f).1.toNat + 65536 * (lsl16 m f).2.c.toNat = 2 * m.toNat ∧
    2 * (lsr16 m f).1.toNat + (lsr16 m f).2.c.toNat = m.toNat ∧
    (lsl16 m f).2.v = ((lsl16 m f).2.n ^^ (lsl16 m f).2.c) ∧ (lsr16 m f).2.n = false ∧
    (lsr16 m f).2.v = (lsr16 m f).2.c)

/-- Nine rotates in a row restore the operand and C (41_shift_rotate.md R195 to R200), in A, in B and in memory. -/
def Obligations.NineRotatesRestore : Prop :=
  (∀ s : State,
    (∃ t, execTimes .rola 9 s = .next t ∧ t.a = s.a ∧ t.ccr.c = s.ccr.c ∧ t.b = s.b) ∧
    (∃ t, execTimes .rora 9 s = .next t ∧ t.a = s.a ∧ t.ccr.c = s.ccr.c ∧ t.b = s.b) ∧
    (∃ t, execTimes .rolb 9 s = .next t ∧ t.b = s.b ∧ t.ccr.c = s.ccr.c ∧ t.a = s.a) ∧
    (∃ t, execTimes .rorb 9 s = .next t ∧ t.b = s.b ∧ t.ccr.c = s.ccr.c ∧ t.a = s.a)) ∧
  (∀ (s : State) (a : Word) (v : Byte), s.readByte a = .ok v → s.params.isCode a = false →
    (∃ t, execTimes (.rol (.ext a)) 9 s = .next t ∧ t.readByte a = .ok v ∧ t.ccr.c = s.ccr.c) ∧
    (∃ t, execTimes (.ror (.ext a)) 9 s = .next t ∧ t.readByte a = .ok v ∧ t.ccr.c = s.ccr.c))

/-- A 16-bit addition or subtraction made of two 8-bit ones, the second with the carry or borrow, agrees with the
16-bit instruction in the result and in C, V and N (42_arithmetic.md R237). -/
def Obligations.CarryChain : Prop :=
  ∀ (s : State) (v : Word), ∃ t u t' u',
    execThen (.addb (.imm (loByte v))) (.adca (.imm (hiByte v))) s = .next t ∧ exec (.addd (.imm v)) s = .next u ∧
    t.d = u.d ∧ t.ccr.c = u.ccr.c ∧ t.ccr.v = u.ccr.v ∧ t.ccr.n = u.ccr.n ∧
    execThen (.subb (.imm (loByte v))) (.sbca (.imm (hiByte v))) s = .next t' ∧
    exec (.subd (.imm v)) s = .next u' ∧
    t'.d = u'.d ∧ t'.ccr.c = u'.ccr.c ∧ t'.ccr.v = u'.ccr.v ∧ t'.ccr.n = u'.ccr.n

/-! ## The CCR -/

/-- The eight flags as a byte, bit by bit (10_state.md R27), and TPA then TAP leaves the CCR as it was
(40_data_transfer.md R154, R155). -/
def Obligations.CcrBytes : Prop :=
  (∀ f : Ccr, f.toByte.getLsbD 7 = f.s ∧ f.toByte.getLsbD 6 = f.x ∧ f.toByte.getLsbD 5 = f.h ∧
    f.toByte.getLsbD 4 = f.i ∧ f.toByte.getLsbD 3 = f.n ∧ f.toByte.getLsbD 2 = f.z ∧ f.toByte.getLsbD 1 = f.v ∧
    f.toByte.getLsbD 0 = f.c ∧ Ccr.ofByte f.toByte = f) ∧
  (∀ b : Byte, (Ccr.ofByte b).toByte = b) ∧
  (∀ s : State, ∃ t, execThen .tpa .tap s = .next t ∧ t.ccr = s.ccr)

/-! ## What each instruction does, and that it does nothing else -/

/-- LDAA, LDAB, LDD, LDX, LDY, LDS (40_data_transfer.md R140 to R145). -/
def Obligations.Loads : Prop :=
  IsSource8 .ldaa (fun v s => { s with a := v, ccr := { s.ccr with n := v.msb, z := decide (v = 0#8), v := false } }) ∧
  IsSource8 .ldab (fun v s => { s with b := v, ccr := { s.ccr with n := v.msb, z := decide (v = 0#8), v := false } }) ∧
  IsSource16 .ldd (fun v s => { s with
    a := hiByte v, b := loByte v, ccr := { s.ccr with n := v.msb, z := decide (v = 0#16), v := false } }) ∧
  IsSource16 .ldx (fun v s => { s with
    x := v, ccr := { s.ccr with n := v.msb, z := decide (v = 0#16), v := false } }) ∧
  IsSource16 .ldy (fun v s => { s with
    y := v, ccr := { s.ccr with n := v.msb, z := decide (v = 0#16), v := false } }) ∧
  IsSource16 .lds (fun v s => { s with
    sp := v, ccr := { s.ccr with n := v.msb, z := decide (v = 0#16), v := false } })

/-- STAA, STAB, STD, STX, STY, STS (40_data_transfer.md R146 to R151). -/
def Obligations.Stores : Prop :=
  IsStore8 .staa State.a (fun v f => { f with n := v.msb, z := decide (v = 0#8), v := false }) ∧
  IsStore8 .stab State.b (fun v f => { f with n := v.msb, z := decide (v = 0#8), v := false }) ∧
  IsStore16 .std State.d (fun v f => { f with n := v.msb, z := decide (v = 0#16), v := false }) ∧
  IsStore16 .stx State.x (fun v f => { f with n := v.msb, z := decide (v = 0#16), v := false }) ∧
  IsStore16 .sty State.y (fun v f => { f with n := v.msb, z := decide (v = 0#16), v := false }) ∧
  IsStore16 .sts State.sp (fun v f => { f with n := v.msb, z := decide (v = 0#16), v := false })

/-- TAB, TBA, TAP, TPA (40_data_transfer.md R152 to R155). TAP copies all eight bits, but with XBIT_STICKY a clear
CCR.X stays clear. -/
def Obligations.Transfers : Prop :=
  IsInherent .tab (fun s => { s with
    b := s.a, ccr := { s.ccr with n := s.a.msb, z := decide (s.a = 0#8), v := false } }) ∧
  IsInherent .tba (fun s => { s with
    a := s.b, ccr := { s.ccr with n := s.b.msb, z := decide (s.b = 0#8), v := false } }) ∧
  IsInherent .tap (fun s => { s with ccr :=
    { s := s.a.getLsbD 7, x := s.a.getLsbD 6 && (!s.params.xbitSticky || s.ccr.x), h := s.a.getLsbD 5,
      i := s.a.getLsbD 4, n := s.a.getLsbD 3, z := s.a.getLsbD 2, v := s.a.getLsbD 1, c := s.a.getLsbD 0 } }) ∧
  IsInherent .tpa (fun s => { s with a := s.ccr.toByte })

/-- MOVB and MOVW (40_data_transfer.md R156, R157): the source is read whole, in the state before the destination
address is evaluated; then the bytes at the destination change and nothing else does, but for the base registers of
auto forms, stepped once each. A MOVW to the next address copies the old word, though the two overlap. -/
def Obligations.Moves : Prop :=
  (∀ (src : MovSrc8) (dst : MovDst) (s t u : State) (v : Byte) (ea : Word),
    (Instr.movb src dst).wellFormed = true →
    MovSrc8.read src (s.next (.movb src dst)) s = .ok (v, t) →
    MovDst.ea dst (s.next (.movb src dst)) t = .ok (ea, u) →
    s.params.mapped ea = true → s.params.isCode ea = false →
    ∃ m, exec (.movb src dst) s = .next { stepOf dst.form (stepOf src.form s) with
        mem := m, pc := s.pc + BitVec.ofNat 16 (Instr.movb src dst).length } ∧
      Memory.get m ea = some v ∧ ∀ a, a ≠ ea → Memory.get m a = Memory.get s.mem a) ∧
  (∀ (src : MovSrc16) (dst : MovDst) (s t u : State) (v ea : Word),
    (Instr.movw src dst).wellFormed = true →
    MovSrc16.read src (s.next (.movw src dst)) s = .ok (v, t) →
    MovDst.ea dst (s.next (.movw src dst)) t = .ok (ea, u) →
    s.params.mapped ea = true → s.params.isCode ea = false →
    s.params.mapped (ea + 1#16) = true → s.params.isCode (ea + 1#16) = false →
    ∃ m, exec (.movw src dst) s = .next { stepOf dst.form (stepOf src.form s) with
        mem := m, pc := s.pc + BitVec.ofNat 16 (Instr.movw src dst).length } ∧
      Memory.get m ea = some (hiByte v) ∧ Memory.get m (ea + 1#16) = some (loByte v) ∧
      ∀ a, a ≠ ea → a ≠ ea + 1#16 → Memory.get m a = Memory.get s.mem a) ∧
  (∀ (s : State) (a v : Word), s.readWord a = .ok v → s.params.mapped (a + 2#16) = true →
    s.params.isCode (a + 1#16) = false → s.params.isCode (a + 2#16) = false →
    ∃ t, exec (.movw (.ext a) (.ext (a + 1#16))) s = .next t ∧ t.readWord (a + 1#16) = .ok v ∧
      t.readByte a = .ok (hiByte v))

/-- LSL, LSR, ASL, ASR, ROL, ROR of a byte of memory (41_shift_rotate.md R180, R184, R188, R192, R195, R198, R201):
the result by its bits, C the bit shifted out, N, Z from the result, V = N exclusive-or C. -/
def Obligations.MemoryShifts : Prop :=
  IsModify .lsl (fun m f => (m <<< 1, f.shift8 (m <<< 1) (m.getLsbD 7))) ∧
  IsModify .asl (fun m f => (m <<< 1, f.shift8 (m <<< 1) (m.getLsbD 7))) ∧
  IsModify .lsr (fun m f => (m >>> 1, f.shift8 (m >>> 1) (m.getLsbD 0))) ∧
  IsModify .asr (fun m f => (m.sshiftRight 1, f.shift8 (m.sshiftRight 1) (m.getLsbD 0))) ∧
  IsModify .rol (fun m f => (m <<< 1 ||| BitVec.ofNat 8 f.c.toNat,
    f.shift8 (m <<< 1 ||| BitVec.ofNat 8 f.c.toNat) (m.getLsbD 7))) ∧
  IsModify .ror (fun m f => (m >>> 1 ||| BitVec.ofNat 8 (128 * f.c.toNat),
    f.shift8 (m >>> 1 ||| BitVec.ofNat 8 (128 * f.c.toNat)) (m.getLsbD 0)))

/-- The shifts and rotates of A, B and D (41_shift_rotate.md R181 to R183, R185 to R187, R189 to R191, R193, R194,
R196, R197, R199 to R201). -/
def Obligations.RegisterShifts : Prop :=
  (∀ i ∈ [Instr.lsla, .asla], IsInherent i (fun s => { s with
    a := s.a <<< 1, ccr := s.ccr.shift8 (s.a <<< 1) (s.a.getLsbD 7) })) ∧
  (∀ i ∈ [Instr.lslb, .aslb], IsInherent i (fun s => { s with
    b := s.b <<< 1, ccr := s.ccr.shift8 (s.b <<< 1) (s.b.getLsbD 7) })) ∧
  (∀ i ∈ [Instr.lsld, .asld], IsInherent i (fun s => { s with
    a := hiByte (s.d <<< 1), b := loByte (s.d <<< 1), ccr := s.ccr.shift16 (s.d <<< 1) (s.d.getLsbD 15) })) ∧
  IsInherent .lsra (fun s => { s with a := s.a >>> 1, ccr := s.ccr.shift8 (s.a >>> 1) (s.a.getLsbD 0) }) ∧
  IsInherent .lsrb (fun s => { s with b := s.b >>> 1, ccr := s.ccr.shift8 (s.b >>> 1) (s.b.getLsbD 0) }) ∧
  IsInherent .lsrd (fun s => { s with
    a := hiByte (s.d >>> 1), b := loByte (s.d >>> 1), ccr := s.ccr.shift16 (s.d >>> 1) (s.d.getLsbD 0) }) ∧
  IsInherent .asra (fun s => { s with
    a := s.a.sshiftRight 1, ccr := s.ccr.shift8 (s.a.sshiftRight 1) (s.a.getLsbD 0) }) ∧
  IsInherent .asrb (fun s => { s with
    b := s.b.sshiftRight 1, ccr := s.ccr.shift8 (s.b.sshiftRight 1) (s.b.getLsbD 0) }) ∧
  IsInherent .rola (fun s => { s with
    a := s.a <<< 1 ||| BitVec.ofNat 8 s.ccr.c.toNat,
    ccr := s.ccr.shift8 (s.a <<< 1 ||| BitVec.ofNat 8 s.ccr.c.toNat) (s.a.getLsbD 7) }) ∧
  IsInherent .rolb (fun s => { s with
    b := s.b <<< 1 ||| BitVec.ofNat 8 s.ccr.c.toNat,
    ccr := s.ccr.shift8 (s.b <<< 1 ||| BitVec.ofNat 8 s.ccr.c.toNat) (s.b.getLsbD 7) }) ∧
  IsInherent .rora (fun s => { s with
    a := s.a >>> 1 ||| BitVec.ofNat 8 (128 * s.ccr.c.toNat),
    ccr := s.ccr.shift8 (s.a >>> 1 ||| BitVec.ofNat 8 (128 * s.ccr.c.toNat)) (s.a.getLsbD 0) }) ∧
  IsInherent .rorb (fun s => { s with
    b := s.b >>> 1 ||| BitVec.ofNat 8 (128 * s.ccr.c.toNat),
    ccr := s.ccr.shift8 (s.b >>> 1 ||| BitVec.ofNat 8 (128 * s.ccr.c.toNat)) (s.b.getLsbD 0) })

/-- ABA, ADDA, ADDB, ADDD, ADCA, ADCB (42_arithmetic.md R210, R213 to R217), by the laws of 00_scope.md R12, R14. -/
def Obligations.Additions : Prop :=
  IsInherent .aba (fun s => { s with a := (add8 s.a s.b false s.ccr).1, ccr := (add8 s.a s.b false s.ccr).2 }) ∧
  IsSource8 .adda (fun v s => { s with a := (add8 s.a v false s.ccr).1, ccr := (add8 s.a v false s.ccr).2 }) ∧
  IsSource8 .addb (fun v s => { s with b := (add8 s.b v false s.ccr).1, ccr := (add8 s.b v false s.ccr).2 }) ∧
  IsSource16 .addd (fun v s => { s with
    a := hiByte (add16 s.d v s.ccr).1, b := loByte (add16 s.d v s.ccr).1, ccr := (add16 s.d v s.ccr).2 }) ∧
  IsSource8 .adca (fun v s => { s with a := (add8 s.a v s.ccr.c s.ccr).1, ccr := (add8 s.a v s.ccr.c s.ccr).2 }) ∧
  IsSource8 .adcb (fun v s => { s with b := (add8 s.b v s.ccr.c s.ccr).1, ccr := (add8 s.b v s.ccr.c s.ccr).2 })

/-- SBA, SUBA, SUBB, SUBD, SBCA, SBCB (42_arithmetic.md R218 to R223), by the laws of 00_scope.md R13, R15. -/
def Obligations.Subtractions : Prop :=
  IsInherent .sba (fun s => { s with a := (sub8 s.a s.b false s.ccr).1, ccr := (sub8 s.a s.b false s.ccr).2 }) ∧
  IsSource8 .suba (fun v s => { s with a := (sub8 s.a v false s.ccr).1, ccr := (sub8 s.a v false s.ccr).2 }) ∧
  IsSource8 .subb (fun v s => { s with b := (sub8 s.b v false s.ccr).1, ccr := (sub8 s.b v false s.ccr).2 }) ∧
  IsSource16 .subd (fun v s => { s with
    a := hiByte (sub16 s.d v s.ccr).1, b := loByte (sub16 s.d v s.ccr).1, ccr := (sub16 s.d v s.ccr).2 }) ∧
  IsSource8 .sbca (fun v s => { s with a := (sub8 s.a v s.ccr.c s.ccr).1, ccr := (sub8 s.a v s.ccr.c s.ccr).2 }) ∧
  IsSource8 .sbcb (fun v s => { s with b := (sub8 s.b v s.ccr.c s.ccr).1, ccr := (sub8 s.b v s.ccr.c s.ccr).2 })

/-- ABX, ABY, DES, INS, DEY, INY (42_arithmetic.md R211, R212, R227, R229, R233, R235). In ABX and ABY B is unsigned;
with ABXY_FLAGS = unchanged no flag changes; with `any` only H, N, Z, V, C may, and nothing is said of their values.
In the other four no flag but Z changes; with INCDEC16_Z = source DES and INS set it and DEY and INY leave it, with
silicon the reverse, with `any` nothing is said of it. -/
def Obligations.FreeFlagInstructions : Prop :=
  ∀ s : State,
    (∃ f d, exec .abx s = .next { s with
        x := s.x + BitVec.ofNat 16 s.b.toNat, pc := s.pc + 2#16, ccr := f, drawn := d } ∧
      f.s = s.ccr.s ∧ f.x = s.ccr.x ∧ f.i = s.ccr.i ∧ (s.params.abxyFlags = .unchanged → f = s.ccr)) ∧
    (∃ f d, exec .aby s = .next { s with
        y := s.y + BitVec.ofNat 16 s.b.toNat, pc := s.pc + 2#16, ccr := f, drawn := d } ∧
      f.s = s.ccr.s ∧ f.x = s.ccr.x ∧ f.i = s.ccr.i ∧ (s.params.abxyFlags = .unchanged → f = s.ccr)) ∧
    (∃ z d, exec .des s = .next { s with
        sp := s.sp - 1#16, pc := s.pc + 2#16, ccr := { s.ccr with z := z }, drawn := d } ∧
      (s.params.incDec16Z = .source → z = decide (s.sp - 1#16 = 0#16)) ∧
      (s.params.incDec16Z = .silicon → z = s.ccr.z)) ∧
    (∃ z d, exec .ins s = .next { s with
        sp := s.sp + 1#16, pc := s.pc + 2#16, ccr := { s.ccr with z := z }, drawn := d } ∧
      (s.params.incDec16Z = .source → z = decide (s.sp + 1#16 = 0#16)) ∧
      (s.params.incDec16Z = .silicon → z = s.ccr.z)) ∧
    (∃ z d, exec .dey s = .next { s with
        y := s.y - 1#16, pc := s.pc + 1#16, ccr := { s.ccr with z := z }, drawn := d } ∧
      (s.params.incDec16Z = .source → z = s.ccr.z) ∧
      (s.params.incDec16Z = .silicon → z = decide (s.y - 1#16 = 0#16))) ∧
    (∃ z d, exec .iny s = .next { s with
        y := s.y + 1#16, pc := s.pc + 1#16, ccr := { s.ccr with z := z }, drawn := d } ∧
      (s.params.incDec16Z = .source → z = s.ccr.z) ∧
      (s.params.incDec16Z = .silicon → z = decide (s.y + 1#16 = 0#16)))

/-- DEC, INC of memory; DECA, DECB, INCA, INCB; DEX, INX (42_arithmetic.md R224 to R226, R228, R230 to R232, R234): C is
not changed; DEX and INX change Z alone. -/
def Obligations.IncrementsDecrements : Prop :=
  IsModify .dec (fun m f => (m - 1#8,
    { f with n := (m - 1#8).msb, z := decide (m - 1#8 = 0#8), v := decide (m = 0x80#8) })) ∧
  IsModify .inc (fun m f => (m + 1#8,
    { f with n := (m + 1#8).msb, z := decide (m + 1#8 = 0#8), v := decide (m = 0x7F#8) })) ∧
  IsInherent .deca (fun s => { s with a := s.a - 1#8, ccr := { s.ccr with
    n := (s.a - 1#8).msb, z := decide (s.a - 1#8 = 0#8), v := decide (s.a = 0x80#8) } }) ∧
  IsInherent .decb (fun s => { s with b := s.b - 1#8, ccr := { s.ccr with
    n := (s.b - 1#8).msb, z := decide (s.b - 1#8 = 0#8), v := decide (s.b = 0x80#8) } }) ∧
  IsInherent .inca (fun s => { s with a := s.a + 1#8, ccr := { s.ccr with
    n := (s.a + 1#8).msb, z := decide (s.a + 1#8 = 0#8), v := decide (s.a = 0x7F#8) } }) ∧
  IsInherent .incb (fun s => { s with b := s.b + 1#8, ccr := { s.ccr with
    n := (s.b + 1#8).msb, z := decide (s.b + 1#8 = 0#8), v := decide (s.b = 0x7F#8) } }) ∧
  IsInherent .dex (fun s => { s with x := s.x - 1#16, ccr := { s.ccr with z := decide (s.x - 1#16 = 0#16) } }) ∧
  IsInherent .inx (fun s => { s with x := s.x + 1#16, ccr := { s.ccr with z := decide (s.x + 1#16 = 0#16) } })

/-- ANDA, ANDB, EORA, EORB, ORAA, ORAB, BITA, BITB (43_logic_bit.md R260, R261, R263 to R266, R278, R279). -/
def Obligations.LogicOnAccumulators : Prop :=
  IsSource8 .anda (fun v s => { s with a := s.a &&& v, ccr := { s.ccr with
    n := (s.a &&& v).msb, z := decide (s.a &&& v = 0#8), v := false } }) ∧
  IsSource8 .andb (fun v s => { s with b := s.b &&& v, ccr := { s.ccr with
    n := (s.b &&& v).msb, z := decide (s.b &&& v = 0#8), v := false } }) ∧
  IsSource8 .eora (fun v s => { s with a := s.a ^^^ v, ccr := { s.ccr with
    n := (s.a ^^^ v).msb, z := decide (s.a ^^^ v = 0#8), v := false } }) ∧
  IsSource8 .eorb (fun v s => { s with b := s.b ^^^ v, ccr := { s.ccr with
    n := (s.b ^^^ v).msb, z := decide (s.b ^^^ v = 0#8), v := false } }) ∧
  IsSource8 .oraa (fun v s => { s with a := s.a ||| v, ccr := { s.ccr with
    n := (s.a ||| v).msb, z := decide (s.a ||| v = 0#8), v := false } }) ∧
  IsSource8 .orab (fun v s => { s with b := s.b ||| v, ccr := { s.ccr with
    n := (s.b ||| v).msb, z := decide (s.b ||| v = 0#8), v := false } }) ∧
  IsSource8 .bita (fun v s => { s with ccr := { s.ccr with
    n := (s.a &&& v).msb, z := decide (s.a &&& v = 0#8), v := false } }) ∧
  IsSource8 .bitb (fun v s => { s with ccr := { s.ccr with
    n := (s.b &&& v).msb, z := decide (s.b &&& v = 0#8), v := false } })

/-- ANDCC, ORCC, CLC, CLI, CLV (43_logic_bit.md R262, R267 to R270): ANDCC clears the bits whose mask bit is 0, ORCC sets
those whose mask bit is 1, but with XBIT_STICKY it leaves CCR.X; no other bit changes. -/
def Obligations.CcrInstructions : Prop :=
  (∀ mask, IsInherent (.andcc mask) (fun s => { s with ccr :=
    { s := s.ccr.s && mask.getLsbD 7, x := s.ccr.x && mask.getLsbD 6, h := s.ccr.h && mask.getLsbD 5,
      i := s.ccr.i && mask.getLsbD 4, n := s.ccr.n && mask.getLsbD 3, z := s.ccr.z && mask.getLsbD 2,
      v := s.ccr.v && mask.getLsbD 1, c := s.ccr.c && mask.getLsbD 0 } })) ∧
  (∀ mask, IsInherent (.orcc mask) (fun s => { s with ccr :=
    { s := s.ccr.s || mask.getLsbD 7, x := s.ccr.x || (!s.params.xbitSticky && mask.getLsbD 6),
      h := s.ccr.h || mask.getLsbD 5, i := s.ccr.i || mask.getLsbD 4, n := s.ccr.n || mask.getLsbD 3,
      z := s.ccr.z || mask.getLsbD 2, v := s.ccr.v || mask.getLsbD 1, c := s.ccr.c || mask.getLsbD 0 } })) ∧
  IsInherent .clc (fun s => { s with ccr := { s.ccr with c := false } }) ∧
  IsInherent .cli (fun s => { s with ccr := { s.ccr with i := false } }) ∧
  IsInherent .clv (fun s => { s with ccr := { s.ccr with v := false } })

/-- COM, COMA, COMB, NEG, NEGA, NEGB (43_logic_bit.md R271 to R276). -/
def Obligations.Complements : Prop :=
  IsModify .com (fun m f => (~~~m, { f with n := (~~~m).msb, z := decide (~~~m = 0#8), v := false, c := true })) ∧
  IsInherent .coma (fun s => { s with a := ~~~s.a, ccr := { s.ccr with
    n := (~~~s.a).msb, z := decide (~~~s.a = 0#8), v := false, c := true } }) ∧
  IsInherent .comb (fun s => { s with b := ~~~s.b, ccr := { s.ccr with
    n := (~~~s.b).msb, z := decide (~~~s.b = 0#8), v := false, c := true } }) ∧
  IsModify .neg (fun m f => (-m, { f with
    n := (-m).msb, z := decide (-m = 0#8), v := decide (-m = 0x80#8), c := decide (-m ≠ 0#8) })) ∧
  IsInherent .nega (fun s => { s with a := -s.a, ccr := { s.ccr with
    n := (-s.a).msb, z := decide (-s.a = 0#8), v := decide (-s.a = 0x80#8), c := decide (-s.a ≠ 0#8) } }) ∧
  IsInherent .negb (fun s => { s with b := -s.b, ccr := { s.ccr with
    n := (-s.b).msb, z := decide (-s.b = 0#8), v := decide (-s.b = 0x80#8), c := decide (-s.b ≠ 0#8) } })

/-- BSET and BCLR (43_logic_bit.md R277, R280): the byte at the effective address, evaluated once, is read and written
back with the masked bits set or cleared; N and Z from it, V cleared; nothing else changes but the base register of an
auto form. -/
def Obligations.BitSetAndClear : Prop :=
  ∀ (op : MemOp) (mask : Byte) (s t : State) (ea : Word) (v : Byte),
    ((Instr.bset op mask).wellFormed = true → MemOp.ea op (s.next (.bset op mask)) s = .ok (ea, t) →
      s.readByte ea = .ok v → s.params.isCode ea = false →
      ∃ m, exec (.bset op mask) s = .next { stepOf op.form s with
          mem := m, pc := s.pc + BitVec.ofNat 16 (Instr.bset op mask).length,
          ccr := { s.ccr with n := (v ||| mask).msb, z := decide (v ||| mask = 0#8), v := false } } ∧
        Memory.get m ea = some (v ||| mask) ∧ ∀ a, a ≠ ea → Memory.get m a = Memory.get s.mem a) ∧
    ((Instr.bclr op mask).wellFormed = true → MemOp.ea op (s.next (.bclr op mask)) s = .ok (ea, t) →
      s.readByte ea = .ok v → s.params.isCode ea = false →
      ∃ m, exec (.bclr op mask) s = .next { stepOf op.form s with
          mem := m, pc := s.pc + BitVec.ofNat 16 (Instr.bclr op mask).length,
          ccr := { s.ccr with n := (v &&& ~~~mask).msb, z := decide (v &&& ~~~mask = 0#8), v := false } } ∧
        Memory.get m ea = some (v &&& ~~~mask) ∧ ∀ a, a ≠ ea → Memory.get m a = Memory.get s.mem a)

/-- CBA, CMPA, CMPB, CPD, CPS, CPX, CPY, TST, TSTA, TSTB (44_data_test.md R300 to R309): the flags of the subtraction, or
of the test; no register and no byte changes but the base register of an auto form. -/
def Obligations.ComparesAndTests : Prop :=
  IsInherent .cba (fun s => { s with ccr := (sub8 s.a s.b false s.ccr).2 }) ∧
  IsSource8 .cmpa (fun v s => { s with ccr := (sub8 s.a v false s.ccr).2 }) ∧
  IsSource8 .cmpb (fun v s => { s with ccr := (sub8 s.b v false s.ccr).2 }) ∧
  IsSource16 .cpd (fun v s => { s with ccr := (sub16 s.d v s.ccr).2 }) ∧
  IsSource16 .cps (fun v s => { s with ccr := (sub16 s.sp v s.ccr).2 }) ∧
  IsSource16 .cpx (fun v s => { s with ccr := (sub16 s.x v s.ccr).2 }) ∧
  IsSource16 .cpy (fun v s => { s with ccr := (sub16 s.y v s.ccr).2 }) ∧
  (∀ (op : RmwOp) (s t : State) (ea : Word) (v : Byte), RmwOp.ea op (s.next (.tst op)) s = .ok (ea, t) →
    s.readByte ea = .ok v →
    exec (.tst op) s = .next { stepOf op.form s with
      pc := s.pc + BitVec.ofNat 16 (Instr.tst op).length,
      ccr := { s.ccr with n := v.msb, z := decide (v = 0#8), v := false, c := false } }) ∧
  IsInherent .tsta (fun s => { s with ccr := { s.ccr with
    n := s.a.msb, z := decide (s.a = 0#8), v := false, c := false } }) ∧
  IsInherent .tstb (fun s => { s with ccr := { s.ccr with
    n := s.b.msb, z := decide (s.b = 0#8), v := false, c := false } })

/-- The 18 short branches (45_branch.md R320 to R338). -/
def Obligations.ShortBranches : Prop :=
  ∀ rel : Byte, let offset := BitVec.ofInt 16 rel.toInt
    IsBranch (.brn rel) (fun _ => false) offset ∧ IsBranch (.bra rel) (fun _ => true) offset ∧
    IsBranch (.bcc rel) (fun f => f.c == false) offset ∧ IsBranch (.bcs rel) (fun f => f.c == true) offset ∧
    IsBranch (.beq rel) (fun f => f.z == true) offset ∧ IsBranch (.bne rel) (fun f => f.z == false) offset ∧
    IsBranch (.bmi rel) (fun f => f.n == true) offset ∧ IsBranch (.bpl rel) (fun f => f.n == false) offset ∧
    IsBranch (.bvs rel) (fun f => f.v == true) offset ∧ IsBranch (.bvc rel) (fun f => f.v == false) offset ∧
    IsBranch (.bhs rel) (fun f => f.c == false) offset ∧ IsBranch (.bhi rel) (fun f => (f.c || f.z) == false) offset ∧
    IsBranch (.bls rel) (fun f => (f.c || f.z) == true) offset ∧ IsBranch (.blo rel) (fun f => f.c == true) offset ∧
    IsBranch (.bge rel) (fun f => (f.n ^^ f.v) == false) offset ∧
    IsBranch (.bgt rel) (fun f => (f.z || (f.n ^^ f.v)) == false) offset ∧
    IsBranch (.ble rel) (fun f => (f.z || (f.n ^^ f.v)) == true) offset ∧
    IsBranch (.blt rel) (fun f => (f.n ^^ f.v) == true) offset

/-- The 18 long branches (45_branch.md R320, R340 to R357). -/
def Obligations.LongBranches : Prop :=
  ∀ offset : Word,
    IsBranch (.lbrn offset) (fun _ => false) offset ∧ IsBranch (.lbra offset) (fun _ => true) offset ∧
    IsBranch (.lbcc offset) (fun f => f.c == false) offset ∧ IsBranch (.lbcs offset) (fun f => f.c == true) offset ∧
    IsBranch (.lbeq offset) (fun f => f.z == true) offset ∧ IsBranch (.lbne offset) (fun f => f.z == false) offset ∧
    IsBranch (.lbmi offset) (fun f => f.n == true) offset ∧ IsBranch (.lbpl offset) (fun f => f.n == false) offset ∧
    IsBranch (.lbvs offset) (fun f => f.v == true) offset ∧ IsBranch (.lbvc offset) (fun f => f.v == false) offset ∧
    IsBranch (.lbhs offset) (fun f => f.c == false) offset ∧
    IsBranch (.lbhi offset) (fun f => (f.c || f.z) == false) offset ∧
    IsBranch (.lbls offset) (fun f => (f.c || f.z) == true) offset ∧
    IsBranch (.lblo offset) (fun f => f.c == true) offset ∧
    IsBranch (.lbge offset) (fun f => (f.n ^^ f.v) == false) offset ∧
    IsBranch (.lbgt offset) (fun f => (f.z || (f.n ^^ f.v)) == false) offset ∧
    IsBranch (.lble offset) (fun f => (f.z || (f.n ^^ f.v)) == true) offset ∧
    IsBranch (.lblt offset) (fun f => (f.n ^^ f.v) == true) offset

/-- BRSET (45_branch.md R358): taken when every bit that is 1 in the mask is 1 in the byte; memory and flags are not
changed. -/
def Obligations.BranchIfBitsSet : Prop :=
  ∀ (op : MemOp) (mask rel : Byte) (s t : State) (ea : Word) (v : Byte),
    (Instr.brset op mask rel).wellFormed = true → MemOp.ea op (s.next (.brset op mask rel)) s = .ok (ea, t) →
    s.readByte ea = .ok v →
    ∃ taken : Bool, (taken = true ↔ ∀ k < 8, mask.getLsbD k = true → v.getLsbD k = true) ∧
      exec (.brset op mask rel) s = .next { stepOf op.form s with
        pc := s.pc + BitVec.ofNat 16 (Instr.brset op mask rel).length +
          (if taken then BitVec.ofInt 16 rel.toInt else 0#16) }

/-- JSR and RTS (46_subroutine_swi.md R370, R371). JSR: the target is the effective address, evaluated before SP
changes; the address after the JSR goes to the two bytes at the new SP, high byte first; no other byte, no flag and no
other register changes but the base register of an auto form. RTS: the pc from the two bytes at SP, then SP + 2. -/
def Obligations.CallAndReturn : Prop :=
  (∀ (op : MemOp) (s t : State) (target : Word), (Instr.jsr op).wellFormed = true →
    MemOp.ea op (s.next (.jsr op)) s = .ok (target, t) →
    s.params.mapped (s.sp - 2#16) = true → s.params.isCode (s.sp - 2#16) = false →
    s.params.mapped (s.sp - 1#16) = true → s.params.isCode (s.sp - 1#16) = false →
    ∃ m, exec (.jsr op) s = .next { stepOf op.form s with sp := s.sp - 2#16, mem := m, pc := target } ∧
      Memory.get m (s.sp - 2#16) = some (hiByte (s.pc + BitVec.ofNat 16 (Instr.jsr op).length)) ∧
      Memory.get m (s.sp - 1#16) = some (loByte (s.pc + BitVec.ofNat 16 (Instr.jsr op).length)) ∧
      ∀ a, a ≠ s.sp - 2#16 → a ≠ s.sp - 1#16 → Memory.get m a = Memory.get s.mem a) ∧
  (∀ (s : State) (target : Word), s.readWord s.sp = .ok target →
    exec .rts s = .next { s with sp := s.sp + 2#16, pc := target }) ∧
  (∀ (s : State) (e : Fault), s.readWord s.sp = .error e → exec .rts s = .fault e)

/-! ## Instructions together -/

/-- RTS undoes JSR: it comes back to the instruction after the call with SP as before (46_subroutine_swi.md R370, R371,
R373). -/
def Obligations.ReturnUndoesCall : Prop :=
  ∀ (op : MemOp) (s t : State), exec (.jsr op) s = .next t →
    ∃ u, exec .rts t = .next u ∧ u.pc = s.pc + BitVec.ofNat 16 (Instr.jsr op).length ∧ u.sp = s.sp ∧
      u.a = s.a ∧ u.b = s.b ∧ u.ccr = s.ccr ∧ u.mem = t.mem

/-- After a compare of A with a byte each branch is taken exactly as its name says, unsigned and signed
(45_branch.md R325, R326, R331 to R338, R360; 44_data_test.md R301, R310). -/
def Obligations.CompareThenBranch8 : Prop :=
  ∀ (s : State) (v rel : Byte), ∃ t, exec (.cmpa (.imm v)) s = .next t ∧
    let go (taken : Bool) : State :=
      { t with pc := t.pc + 2#16 + (if taken then BitVec.ofInt 16 rel.toInt else 0#16) }
    exec (.beq rel) t = .next (go (decide (s.a = v))) ∧ exec (.bne rel) t = .next (go (decide (s.a ≠ v))) ∧
    exec (.bhs rel) t = .next (go (decide (v.toNat ≤ s.a.toNat))) ∧
    exec (.bhi rel) t = .next (go (decide (v.toNat < s.a.toNat))) ∧
    exec (.bls rel) t = .next (go (decide (s.a.toNat ≤ v.toNat))) ∧
    exec (.blo rel) t = .next (go (decide (s.a.toNat < v.toNat))) ∧
    exec (.bge rel) t = .next (go (decide (v.toInt ≤ s.a.toInt))) ∧
    exec (.bgt rel) t = .next (go (decide (v.toInt < s.a.toInt))) ∧
    exec (.ble rel) t = .next (go (decide (s.a.toInt ≤ v.toInt))) ∧
    exec (.blt rel) t = .next (go (decide (s.a.toInt < v.toInt)))

/-- The same of the long branches after a 16-bit compare of X (45_branch.md R344, R345, R350 to R357, R360;
44_data_test.md R305, R310). -/
def Obligations.CompareThenBranch16 : Prop :=
  ∀ (s : State) (v rel : Word), ∃ t, exec (.cpx (.imm v)) s = .next t ∧
    let go (taken : Bool) : State := { t with pc := t.pc + 4#16 + (if taken then rel else 0#16) }
    exec (.lbeq rel) t = .next (go (decide (s.x = v))) ∧ exec (.lbne rel) t = .next (go (decide (s.x ≠ v))) ∧
    exec (.lbhs rel) t = .next (go (decide (v.toNat ≤ s.x.toNat))) ∧
    exec (.lbhi rel) t = .next (go (decide (v.toNat < s.x.toNat))) ∧
    exec (.lbls rel) t = .next (go (decide (s.x.toNat ≤ v.toNat))) ∧
    exec (.lblo rel) t = .next (go (decide (s.x.toNat < v.toNat))) ∧
    exec (.lbge rel) t = .next (go (decide (v.toInt ≤ s.x.toInt))) ∧
    exec (.lbgt rel) t = .next (go (decide (v.toInt < s.x.toInt))) ∧
    exec (.lble rel) t = .next (go (decide (s.x.toInt ≤ v.toInt))) ∧
    exec (.lblt rel) t = .next (go (decide (s.x.toInt < v.toInt)))

/-- A BRSET after a BSET with the same operand and mask is taken; after a BCLR with the same operand and a mask that is
not zero it is not (43_logic_bit.md R277, R280; 45_branch.md R358). The operand is no auto form, which would step its
base between the two. -/
def Obligations.BitsSetThenTested : Prop :=
  ∀ (op : MemOp) (mask rel : Byte) (s t : State), op.form.bind IdxForm.stepped = none →
    (exec (.bset op mask) s = .next t →
      exec (.brset op mask rel) t = .next { t with
        pc := t.pc + BitVec.ofNat 16 (Instr.brset op mask rel).length + BitVec.ofInt 16 rel.toInt }) ∧
    (exec (.bclr op mask) s = .next t → mask ≠ 0#8 →
      exec (.brset op mask rel) t = .next { t with
        pc := t.pc + BitVec.ofNat 16 (Instr.brset op mask rel).length })

/-! ## Load records -/

/-- Load records (48_assembler_directives.md R410, R411): a record written as text is read back as it was; an S1 record
puts data byte number k at its address + k and changes no other byte; S0 and S9 change nothing. The count of a record
is one byte, so its data are at most 252 bytes. -/
def Obligations.LoadRecords : Prop :=
  ∀ (r : Record) (m : Memory), r.data.length ≤ 252 →
    parseRecord r.text = some r ∧
    (r.kind = .data →
      (∀ k b, r.data[k]? = some b → Memory.get (r.load m) (r.addr + BitVec.ofNat 16 k) = some b) ∧
      (∀ a, (∀ k < r.data.length, a ≠ r.addr + BitVec.ofNat 16 k) →
        Memory.get (r.load m) a = Memory.get m a)) ∧
    (r.kind ≠ .data → r.load m = m)

end
end

