-- ==== Sys2Proof/Laws/State.lean ====
section
/-! SUPPORT. What each update of the state does to each field. -/

namespace Sys2Proof.Machine

open Sys2Proof

/-! ### `setA` -/

@[simp] theorem State.setA_a (s : State) (v : Byte) : (s.setA v).a = v := rfl
@[simp] theorem State.setA_b (s : State) (v : Byte) : (s.setA v).b = s.b := rfl
@[simp] theorem State.setA_x (s : State) (v : Byte) : (s.setA v).x = s.x := rfl
@[simp] theorem State.setA_y (s : State) (v : Byte) : (s.setA v).y = s.y := rfl
@[simp] theorem State.setA_sp (s : State) (v : Byte) : (s.setA v).sp = s.sp := rfl
@[simp] theorem State.setA_pc (s : State) (v : Byte) : (s.setA v).pc = s.pc := rfl
@[simp] theorem State.setA_ccr (s : State) (v : Byte) : (s.setA v).ccr = s.ccr := rfl
@[simp] theorem State.setA_mem (s : State) (v : Byte) : (s.setA v).mem = s.mem := rfl
@[simp] theorem State.setA_params (s : State) (v : Byte) : (s.setA v).params = s.params := rfl
@[simp] theorem State.setA_halted (s : State) (v : Byte) : (s.setA v).halted = s.halted := rfl
@[simp] theorem State.setA_drawn (s : State) (v : Byte) : (s.setA v).drawn = s.drawn := rfl

/-! ### `setB` -/

@[simp] theorem State.setB_a (s : State) (v : Byte) : (s.setB v).a = s.a := rfl
@[simp] theorem State.setB_b (s : State) (v : Byte) : (s.setB v).b = v := rfl
@[simp] theorem State.setB_x (s : State) (v : Byte) : (s.setB v).x = s.x := rfl
@[simp] theorem State.setB_y (s : State) (v : Byte) : (s.setB v).y = s.y := rfl
@[simp] theorem State.setB_sp (s : State) (v : Byte) : (s.setB v).sp = s.sp := rfl
@[simp] theorem State.setB_pc (s : State) (v : Byte) : (s.setB v).pc = s.pc := rfl
@[simp] theorem State.setB_ccr (s : State) (v : Byte) : (s.setB v).ccr = s.ccr := rfl
@[simp] theorem State.setB_mem (s : State) (v : Byte) : (s.setB v).mem = s.mem := rfl
@[simp] theorem State.setB_params (s : State) (v : Byte) : (s.setB v).params = s.params := rfl
@[simp] theorem State.setB_halted (s : State) (v : Byte) : (s.setB v).halted = s.halted := rfl
@[simp] theorem State.setB_drawn (s : State) (v : Byte) : (s.setB v).drawn = s.drawn := rfl

/-! ### `setX` -/

@[simp] theorem State.setX_a (s : State) (v : Word) : (s.setX v).a = s.a := rfl
@[simp] theorem State.setX_b (s : State) (v : Word) : (s.setX v).b = s.b := rfl
@[simp] theorem State.setX_x (s : State) (v : Word) : (s.setX v).x = v := rfl
@[simp] theorem State.setX_y (s : State) (v : Word) : (s.setX v).y = s.y := rfl
@[simp] theorem State.setX_sp (s : State) (v : Word) : (s.setX v).sp = s.sp := rfl
@[simp] theorem State.setX_pc (s : State) (v : Word) : (s.setX v).pc = s.pc := rfl
@[simp] theorem State.setX_ccr (s : State) (v : Word) : (s.setX v).ccr = s.ccr := rfl
@[simp] theorem State.setX_mem (s : State) (v : Word) : (s.setX v).mem = s.mem := rfl
@[simp] theorem State.setX_params (s : State) (v : Word) : (s.setX v).params = s.params := rfl
@[simp] theorem State.setX_halted (s : State) (v : Word) : (s.setX v).halted = s.halted := rfl
@[simp] theorem State.setX_drawn (s : State) (v : Word) : (s.setX v).drawn = s.drawn := rfl

/-! ### `setY` -/

@[simp] theorem State.setY_a (s : State) (v : Word) : (s.setY v).a = s.a := rfl
@[simp] theorem State.setY_b (s : State) (v : Word) : (s.setY v).b = s.b := rfl
@[simp] theorem State.setY_x (s : State) (v : Word) : (s.setY v).x = s.x := rfl
@[simp] theorem State.setY_y (s : State) (v : Word) : (s.setY v).y = v := rfl
@[simp] theorem State.setY_sp (s : State) (v : Word) : (s.setY v).sp = s.sp := rfl
@[simp] theorem State.setY_pc (s : State) (v : Word) : (s.setY v).pc = s.pc := rfl
@[simp] theorem State.setY_ccr (s : State) (v : Word) : (s.setY v).ccr = s.ccr := rfl
@[simp] theorem State.setY_mem (s : State) (v : Word) : (s.setY v).mem = s.mem := rfl
@[simp] theorem State.setY_params (s : State) (v : Word) : (s.setY v).params = s.params := rfl
@[simp] theorem State.setY_halted (s : State) (v : Word) : (s.setY v).halted = s.halted := rfl
@[simp] theorem State.setY_drawn (s : State) (v : Word) : (s.setY v).drawn = s.drawn := rfl

/-! ### `setSp` -/

@[simp] theorem State.setSp_a (s : State) (v : Word) : (s.setSp v).a = s.a := rfl
@[simp] theorem State.setSp_b (s : State) (v : Word) : (s.setSp v).b = s.b := rfl
@[simp] theorem State.setSp_x (s : State) (v : Word) : (s.setSp v).x = s.x := rfl
@[simp] theorem State.setSp_y (s : State) (v : Word) : (s.setSp v).y = s.y := rfl
@[simp] theorem State.setSp_sp (s : State) (v : Word) : (s.setSp v).sp = v := rfl
@[simp] theorem State.setSp_pc (s : State) (v : Word) : (s.setSp v).pc = s.pc := rfl
@[simp] theorem State.setSp_ccr (s : State) (v : Word) : (s.setSp v).ccr = s.ccr := rfl
@[simp] theorem State.setSp_mem (s : State) (v : Word) : (s.setSp v).mem = s.mem := rfl
@[simp] theorem State.setSp_params (s : State) (v : Word) : (s.setSp v).params = s.params := rfl
@[simp] theorem State.setSp_halted (s : State) (v : Word) : (s.setSp v).halted = s.halted := rfl
@[simp] theorem State.setSp_drawn (s : State) (v : Word) : (s.setSp v).drawn = s.drawn := rfl

/-! ### `setPc` -/

@[simp] theorem State.setPc_a (s : State) (v : Word) : (s.setPc v).a = s.a := rfl
@[simp] theorem State.setPc_b (s : State) (v : Word) : (s.setPc v).b = s.b := rfl
@[simp] theorem State.setPc_x (s : State) (v : Word) : (s.setPc v).x = s.x := rfl
@[simp] theorem State.setPc_y (s : State) (v : Word) : (s.setPc v).y = s.y := rfl
@[simp] theorem State.setPc_sp (s : State) (v : Word) : (s.setPc v).sp = s.sp := rfl
@[simp] theorem State.setPc_pc (s : State) (v : Word) : (s.setPc v).pc = v := rfl
@[simp] theorem State.setPc_ccr (s : State) (v : Word) : (s.setPc v).ccr = s.ccr := rfl
@[simp] theorem State.setPc_mem (s : State) (v : Word) : (s.setPc v).mem = s.mem := rfl
@[simp] theorem State.setPc_params (s : State) (v : Word) : (s.setPc v).params = s.params := rfl
@[simp] theorem State.setPc_halted (s : State) (v : Word) : (s.setPc v).halted = s.halted := rfl
@[simp] theorem State.setPc_drawn (s : State) (v : Word) : (s.setPc v).drawn = s.drawn := rfl

/-! ### `setCcr` -/

@[simp] theorem State.setCcr_a (s : State) (f : Ccr) : (s.setCcr f).a = s.a := rfl
@[simp] theorem State.setCcr_b (s : State) (f : Ccr) : (s.setCcr f).b = s.b := rfl
@[simp] theorem State.setCcr_x (s : State) (f : Ccr) : (s.setCcr f).x = s.x := rfl
@[simp] theorem State.setCcr_y (s : State) (f : Ccr) : (s.setCcr f).y = s.y := rfl
@[simp] theorem State.setCcr_sp (s : State) (f : Ccr) : (s.setCcr f).sp = s.sp := rfl
@[simp] theorem State.setCcr_pc (s : State) (f : Ccr) : (s.setCcr f).pc = s.pc := rfl
@[simp] theorem State.setCcr_ccr (s : State) (f : Ccr) : (s.setCcr f).ccr = f := rfl
@[simp] theorem State.setCcr_mem (s : State) (f : Ccr) : (s.setCcr f).mem = s.mem := rfl
@[simp] theorem State.setCcr_params (s : State) (f : Ccr) : (s.setCcr f).params = s.params := rfl
@[simp] theorem State.setCcr_halted (s : State) (f : Ccr) : (s.setCcr f).halted = s.halted := rfl
@[simp] theorem State.setCcr_drawn (s : State) (f : Ccr) : (s.setCcr f).drawn = s.drawn := rfl

/-! ### `setMem` -/

@[simp] theorem State.setMem_a (s : State) (m : Memory) : (s.setMem m).a = s.a := rfl
@[simp] theorem State.setMem_b (s : State) (m : Memory) : (s.setMem m).b = s.b := rfl
@[simp] theorem State.setMem_x (s : State) (m : Memory) : (s.setMem m).x = s.x := rfl
@[simp] theorem State.setMem_y (s : State) (m : Memory) : (s.setMem m).y = s.y := rfl
@[simp] theorem State.setMem_sp (s : State) (m : Memory) : (s.setMem m).sp = s.sp := rfl
@[simp] theorem State.setMem_pc (s : State) (m : Memory) : (s.setMem m).pc = s.pc := rfl
@[simp] theorem State.setMem_ccr (s : State) (m : Memory) : (s.setMem m).ccr = s.ccr := rfl
@[simp] theorem State.setMem_mem (s : State) (m : Memory) : (s.setMem m).mem = m := rfl
@[simp] theorem State.setMem_params (s : State) (m : Memory) : (s.setMem m).params = s.params := rfl
@[simp] theorem State.setMem_halted (s : State) (m : Memory) : (s.setMem m).halted = s.halted := rfl
@[simp] theorem State.setMem_drawn (s : State) (m : Memory) : (s.setMem m).drawn = s.drawn := rfl

/-! ### `setD` -/

@[simp] theorem State.setD_a (s : State) (v : Word) : (s.setD v).a = hiByte v := rfl
@[simp] theorem State.setD_b (s : State) (v : Word) : (s.setD v).b = loByte v := rfl
@[simp] theorem State.setD_x (s : State) (v : Word) : (s.setD v).x = s.x := rfl
@[simp] theorem State.setD_y (s : State) (v : Word) : (s.setD v).y = s.y := rfl
@[simp] theorem State.setD_sp (s : State) (v : Word) : (s.setD v).sp = s.sp := rfl
@[simp] theorem State.setD_pc (s : State) (v : Word) : (s.setD v).pc = s.pc := rfl
@[simp] theorem State.setD_ccr (s : State) (v : Word) : (s.setD v).ccr = s.ccr := rfl
@[simp] theorem State.setD_mem (s : State) (v : Word) : (s.setD v).mem = s.mem := rfl
@[simp] theorem State.setD_params (s : State) (v : Word) : (s.setD v).params = s.params := rfl
@[simp] theorem State.setD_halted (s : State) (v : Word) : (s.setD v).halted = s.halted := rfl
@[simp] theorem State.setD_drawn (s : State) (v : Word) : (s.setD v).drawn = s.drawn := rfl

/-! ### `putA` -/

@[simp] theorem State.putA_a (s : State) (r : Byte × Ccr) : (s.putA r).a = r.1 := rfl
@[simp] theorem State.putA_b (s : State) (r : Byte × Ccr) : (s.putA r).b = s.b := rfl
@[simp] theorem State.putA_x (s : State) (r : Byte × Ccr) : (s.putA r).x = s.x := rfl
@[simp] theorem State.putA_y (s : State) (r : Byte × Ccr) : (s.putA r).y = s.y := rfl
@[simp] theorem State.putA_sp (s : State) (r : Byte × Ccr) : (s.putA r).sp = s.sp := rfl
@[simp] theorem State.putA_pc (s : State) (r : Byte × Ccr) : (s.putA r).pc = s.pc := rfl
@[simp] theorem State.putA_ccr (s : State) (r : Byte × Ccr) : (s.putA r).ccr = r.2 := rfl
@[simp] theorem State.putA_mem (s : State) (r : Byte × Ccr) : (s.putA r).mem = s.mem := rfl
@[simp] theorem State.putA_params (s : State) (r : Byte × Ccr) : (s.putA r).params = s.params := rfl
@[simp] theorem State.putA_halted (s : State) (r : Byte × Ccr) : (s.putA r).halted = s.halted := rfl
@[simp] theorem State.putA_drawn (s : State) (r : Byte × Ccr) : (s.putA r).drawn = s.drawn := rfl

/-! ### `putB` -/

@[simp] theorem State.putB_a (s : State) (r : Byte × Ccr) : (s.putB r).a = s.a := rfl
@[simp] theorem State.putB_b (s : State) (r : Byte × Ccr) : (s.putB r).b = r.1 := rfl
@[simp] theorem State.putB_x (s : State) (r : Byte × Ccr) : (s.putB r).x = s.x := rfl
@[simp] theorem State.putB_y (s : State) (r : Byte × Ccr) : (s.putB r).y = s.y := rfl
@[simp] theorem State.putB_sp (s : State) (r : Byte × Ccr) : (s.putB r).sp = s.sp := rfl
@[simp] theorem State.putB_pc (s : State) (r : Byte × Ccr) : (s.putB r).pc = s.pc := rfl
@[simp] theorem State.putB_ccr (s : State) (r : Byte × Ccr) : (s.putB r).ccr = r.2 := rfl
@[simp] theorem State.putB_mem (s : State) (r : Byte × Ccr) : (s.putB r).mem = s.mem := rfl
@[simp] theorem State.putB_params (s : State) (r : Byte × Ccr) : (s.putB r).params = s.params := rfl
@[simp] theorem State.putB_halted (s : State) (r : Byte × Ccr) : (s.putB r).halted = s.halted := rfl
@[simp] theorem State.putB_drawn (s : State) (r : Byte × Ccr) : (s.putB r).drawn = s.drawn := rfl

/-! ### `putD` -/

@[simp] theorem State.putD_a (s : State) (r : Word × Ccr) : (s.putD r).a = hiByte r.1 := rfl
@[simp] theorem State.putD_b (s : State) (r : Word × Ccr) : (s.putD r).b = loByte r.1 := rfl
@[simp] theorem State.putD_x (s : State) (r : Word × Ccr) : (s.putD r).x = s.x := rfl
@[simp] theorem State.putD_y (s : State) (r : Word × Ccr) : (s.putD r).y = s.y := rfl
@[simp] theorem State.putD_sp (s : State) (r : Word × Ccr) : (s.putD r).sp = s.sp := rfl
@[simp] theorem State.putD_pc (s : State) (r : Word × Ccr) : (s.putD r).pc = s.pc := rfl
@[simp] theorem State.putD_ccr (s : State) (r : Word × Ccr) : (s.putD r).ccr = r.2 := rfl
@[simp] theorem State.putD_mem (s : State) (r : Word × Ccr) : (s.putD r).mem = s.mem := rfl
@[simp] theorem State.putD_params (s : State) (r : Word × Ccr) : (s.putD r).params = s.params := rfl
@[simp] theorem State.putD_halted (s : State) (r : Word × Ccr) : (s.putD r).halted = s.halted := rfl
@[simp] theorem State.putD_drawn (s : State) (r : Word × Ccr) : (s.putD r).drawn = s.drawn := rfl

/-! ### `raiseSwi` -/

@[simp] theorem State.raiseSwi_a (s : State) : s.raiseSwi.a = s.a := rfl
@[simp] theorem State.raiseSwi_b (s : State) : s.raiseSwi.b = s.b := rfl
@[simp] theorem State.raiseSwi_x (s : State) : s.raiseSwi.x = s.x := rfl
@[simp] theorem State.raiseSwi_y (s : State) : s.raiseSwi.y = s.y := rfl
@[simp] theorem State.raiseSwi_sp (s : State) : s.raiseSwi.sp = s.sp := rfl
@[simp] theorem State.raiseSwi_pc (s : State) : s.raiseSwi.pc = s.pc := rfl
@[simp] theorem State.raiseSwi_ccr (s : State) : s.raiseSwi.ccr = s.ccr := rfl
@[simp] theorem State.raiseSwi_mem (s : State) : s.raiseSwi.mem = s.mem := rfl
@[simp] theorem State.raiseSwi_params (s : State) : s.raiseSwi.params = s.params := rfl
@[simp] theorem State.raiseSwi_halted (s : State) : s.raiseSwi.halted = true := rfl
@[simp] theorem State.raiseSwi_drawn (s : State) : s.raiseSwi.drawn = s.drawn := rfl

/-! ### `setZ16` -/

@[simp] theorem State.setZ16_a (s : State) (r : Word) : (s.setZ16 r).a = s.a := rfl
@[simp] theorem State.setZ16_b (s : State) (r : Word) : (s.setZ16 r).b = s.b := rfl
@[simp] theorem State.setZ16_x (s : State) (r : Word) : (s.setZ16 r).x = s.x := rfl
@[simp] theorem State.setZ16_y (s : State) (r : Word) : (s.setZ16 r).y = s.y := rfl
@[simp] theorem State.setZ16_sp (s : State) (r : Word) : (s.setZ16 r).sp = s.sp := rfl
@[simp] theorem State.setZ16_pc (s : State) (r : Word) : (s.setZ16 r).pc = s.pc := rfl
@[simp] theorem State.setZ16_ccr (s : State) (r : Word) :
    (s.setZ16 r).ccr = { s.ccr with z := decide (r = 0x0000#16) } := rfl
@[simp] theorem State.setZ16_mem (s : State) (r : Word) : (s.setZ16 r).mem = s.mem := rfl
@[simp] theorem State.setZ16_params (s : State) (r : Word) : (s.setZ16 r).params = s.params := rfl
@[simp] theorem State.setZ16_halted (s : State) (r : Word) : (s.setZ16 r).halted = s.halted := rfl
@[simp] theorem State.setZ16_drawn (s : State) (r : Word) : (s.setZ16 r).drawn = s.drawn := rfl

/-! ### `freeZ` -/

@[simp] theorem State.freeZ_a (s : State) : s.freeZ.a = s.a := rfl
@[simp] theorem State.freeZ_b (s : State) : s.freeZ.b = s.b := rfl
@[simp] theorem State.freeZ_x (s : State) : s.freeZ.x = s.x := rfl
@[simp] theorem State.freeZ_y (s : State) : s.freeZ.y = s.y := rfl
@[simp] theorem State.freeZ_sp (s : State) : s.freeZ.sp = s.sp := rfl
@[simp] theorem State.freeZ_pc (s : State) : s.freeZ.pc = s.pc := rfl
@[simp] theorem State.freeZ_ccr (s : State) : s.freeZ.ccr = { s.ccr with z := s.freeFlag 0 } := rfl
@[simp] theorem State.freeZ_mem (s : State) : s.freeZ.mem = s.mem := rfl
@[simp] theorem State.freeZ_params (s : State) : s.freeZ.params = s.params := rfl
@[simp] theorem State.freeZ_halted (s : State) : s.freeZ.halted = s.halted := rfl
@[simp] theorem State.freeZ_drawn (s : State) : s.freeZ.drawn = s.drawn + 1 := rfl

/-! ### The auto registers -/

@[simp] theorem State.setAuto_a (s : State) (r : AutoReg) (v : Word) : (s.setAuto r v).a = s.a := by
  cases r <;> rfl
@[simp] theorem State.setAuto_b (s : State) (r : AutoReg) (v : Word) : (s.setAuto r v).b = s.b := by
  cases r <;> rfl
@[simp] theorem State.setAuto_pc (s : State) (r : AutoReg) (v : Word) : (s.setAuto r v).pc = s.pc := by
  cases r <;> rfl
@[simp] theorem State.setAuto_ccr (s : State) (r : AutoReg) (v : Word) : (s.setAuto r v).ccr = s.ccr := by
  cases r <;> rfl
@[simp] theorem State.setAuto_mem (s : State) (r : AutoReg) (v : Word) : (s.setAuto r v).mem = s.mem := by
  cases r <;> rfl
@[simp] theorem State.setAuto_params (s : State) (r : AutoReg) (v : Word) : (s.setAuto r v).params = s.params := by
  cases r <;> rfl
@[simp] theorem State.setAuto_halted (s : State) (r : AutoReg) (v : Word) : (s.setAuto r v).halted = s.halted := by
  cases r <;> rfl
@[simp] theorem State.setAuto_drawn (s : State) (r : AutoReg) (v : Word) : (s.setAuto r v).drawn = s.drawn := by
  cases r <;> rfl
@[simp] theorem State.setAuto_auto (s : State) (r : AutoReg) (v : Word) : (s.setAuto r v).auto r = v := by
  cases r <;> rfl
theorem State.setAuto_other (s : State) (r q : AutoReg) (v : Word) (h : q ≠ r) : (s.setAuto r v).auto q = s.auto q := by
  cases r <;> cases q <;> first | rfl | exact absurd rfl h

/-! ### `abxyFlags` -/

@[simp] theorem State.abxyFlags_a (s : State) : s.abxyFlags.a = s.a := by
  unfold State.abxyFlags; split <;> rfl
@[simp] theorem State.abxyFlags_b (s : State) : s.abxyFlags.b = s.b := by
  unfold State.abxyFlags; split <;> rfl
@[simp] theorem State.abxyFlags_x (s : State) : s.abxyFlags.x = s.x := by
  unfold State.abxyFlags; split <;> rfl
@[simp] theorem State.abxyFlags_y (s : State) : s.abxyFlags.y = s.y := by
  unfold State.abxyFlags; split <;> rfl
@[simp] theorem State.abxyFlags_sp (s : State) : s.abxyFlags.sp = s.sp := by
  unfold State.abxyFlags; split <;> rfl
@[simp] theorem State.abxyFlags_pc (s : State) : s.abxyFlags.pc = s.pc := by
  unfold State.abxyFlags; split <;> rfl
@[simp] theorem State.abxyFlags_mem (s : State) : s.abxyFlags.mem = s.mem := by
  unfold State.abxyFlags; split <;> rfl
@[simp] theorem State.abxyFlags_params (s : State) : s.abxyFlags.params = s.params := by
  unfold State.abxyFlags; split <;> rfl
@[simp] theorem State.abxyFlags_halted (s : State) : s.abxyFlags.halted = s.halted := by
  unfold State.abxyFlags; split <;> rfl

/-! ### `zAfterSp` -/

@[simp] theorem State.zAfterSp_a (s : State) (r : Word) : (s.zAfterSp r).a = s.a := by
  unfold State.zAfterSp; split <;> rfl
@[simp] theorem State.zAfterSp_b (s : State) (r : Word) : (s.zAfterSp r).b = s.b := by
  unfold State.zAfterSp; split <;> rfl
@[simp] theorem State.zAfterSp_x (s : State) (r : Word) : (s.zAfterSp r).x = s.x := by
  unfold State.zAfterSp; split <;> rfl
@[simp] theorem State.zAfterSp_y (s : State) (r : Word) : (s.zAfterSp r).y = s.y := by
  unfold State.zAfterSp; split <;> rfl
@[simp] theorem State.zAfterSp_sp (s : State) (r : Word) : (s.zAfterSp r).sp = s.sp := by
  unfold State.zAfterSp; split <;> rfl
@[simp] theorem State.zAfterSp_pc (s : State) (r : Word) : (s.zAfterSp r).pc = s.pc := by
  unfold State.zAfterSp; split <;> rfl
@[simp] theorem State.zAfterSp_mem (s : State) (r : Word) : (s.zAfterSp r).mem = s.mem := by
  unfold State.zAfterSp; split <;> rfl
@[simp] theorem State.zAfterSp_params (s : State) (r : Word) : (s.zAfterSp r).params = s.params := by
  unfold State.zAfterSp; split <;> rfl
@[simp] theorem State.zAfterSp_halted (s : State) (r : Word) : (s.zAfterSp r).halted = s.halted := by
  unfold State.zAfterSp; split <;> rfl

/-! ### `zAfterY` -/

@[simp] theorem State.zAfterY_a (s : State) (r : Word) : (s.zAfterY r).a = s.a := by
  unfold State.zAfterY; split <;> rfl
@[simp] theorem State.zAfterY_b (s : State) (r : Word) : (s.zAfterY r).b = s.b := by
  unfold State.zAfterY; split <;> rfl
@[simp] theorem State.zAfterY_x (s : State) (r : Word) : (s.zAfterY r).x = s.x := by
  unfold State.zAfterY; split <;> rfl
@[simp] theorem State.zAfterY_y (s : State) (r : Word) : (s.zAfterY r).y = s.y := by
  unfold State.zAfterY; split <;> rfl
@[simp] theorem State.zAfterY_sp (s : State) (r : Word) : (s.zAfterY r).sp = s.sp := by
  unfold State.zAfterY; split <;> rfl
@[simp] theorem State.zAfterY_pc (s : State) (r : Word) : (s.zAfterY r).pc = s.pc := by
  unfold State.zAfterY; split <;> rfl
@[simp] theorem State.zAfterY_mem (s : State) (r : Word) : (s.zAfterY r).mem = s.mem := by
  unfold State.zAfterY; split <;> rfl
@[simp] theorem State.zAfterY_params (s : State) (r : Word) : (s.zAfterY r).params = s.params := by
  unfold State.zAfterY; split <;> rfl
@[simp] theorem State.zAfterY_halted (s : State) (r : Word) : (s.zAfterY r).halted = s.halted := by
  unfold State.zAfterY; split <;> rfl

/-! ### Reading what does not depend on the update -/

@[simp] theorem State.setPc_d (s : State) (v : Word) : (s.setPc v).d = s.d := rfl
@[simp] theorem State.setCcr_d (s : State) (f : Ccr) : (s.setCcr f).d = s.d := rfl
@[simp] theorem State.setMem_d (s : State) (m : Memory) : (s.setMem m).d = s.d := rfl

theorem hiByte_join (hi lo : Byte) : hiByte (join hi lo) = hi := by
  apply BitVec.eq_of_getLsbD_eq
  intro i hi'
  simp only [hiByte, join, BitVec.getLsbD_extractLsb', BitVec.getLsbD_append]
  rw [if_neg (by omega)]
  simp [show 8 + i - 8 = i by omega, hi']

theorem loByte_join (hi lo : Byte) : loByte (join hi lo) = lo := by
  apply BitVec.eq_of_getLsbD_eq
  intro i hi'
  simp only [loByte, join, BitVec.getLsbD_extractLsb', BitVec.getLsbD_append]
  rw [if_pos (by omega)]
  simp [hi']

theorem join_hi_lo (w : Word) : join (hiByte w) (loByte w) = w := by
  apply BitVec.eq_of_getLsbD_eq
  intro i hi'
  simp only [hiByte, loByte, join, BitVec.getLsbD_extractLsb', BitVec.getLsbD_append]
  split
  · next h => simp [h]
  · next h => simp [show 8 + (i - 8) = i by omega, show i - 8 < 8 by omega]

@[simp] theorem State.setD_d (s : State) (v : Word) : (s.setD v).d = v := join_hi_lo v

@[simp] theorem State.putD_d (s : State) (r : Word × Ccr) : (s.putD r).d = r.1 := join_hi_lo r.1

end Sys2Proof.Machine
end

