-- ==== Sys2Proof/Laws/Memory.lean ====
section
/-! SUPPORT. What the memory operations can do: one lemma for each. -/

namespace Sys2Proof.Machine

open Sys2Proof

/-! ## The list -/

theorem Memory.get_set_same (m : Memory) (a : Word) (v : Byte) : Memory.get (Memory.set m a v) a = some v := by
  induction m with
  | nil => simp [Memory.set, Memory.get]
  | cons c m ih =>
    obtain ⟨k, w⟩ := c
    simp only [Memory.set]
    split
    · simp [Memory.get]
    · split
      · next h => simp [Memory.get, h]
      · next h => simp [Memory.get, Ne.symm h, ih]

theorem Memory.get_set_other (m : Memory) (a b : Word) (v : Byte) (h : b ≠ a) :
    Memory.get (Memory.set m a v) b = Memory.get m b := by
  have hn : a.toNat ≠ b.toNat := fun e => h (BitVec.eq_of_toNat_eq e.symm)
  induction m with
  | nil => simp [Memory.set, Memory.get, hn]
  | cons c m ih =>
    obtain ⟨k, w⟩ := c
    simp only [Memory.set]
    split
    · simp [Memory.get, hn]
    · split
      · next h => subst h; simp [Memory.get, hn]
      · simp only [Memory.get, ih]

theorem Memory.get_set (m : Memory) (a b : Word) (v : Byte) :
    Memory.get (Memory.set m a v) b = if b = a then some v else Memory.get m b := by
  split
  · next h => rw [h, Memory.get_set_same]
  · next h => exact Memory.get_set_other m a b v h

theorem Memory.wfFrom_set (m : Memory) (lo : Nat) (a : Word) (v : Byte) (h : Memory.wfFrom lo m = true)
    (hlo : lo ≤ a.toNat) : Memory.wfFrom lo (Memory.set m a v) = true := by
  have ha : a.toNat < 65536 := a.isLt
  induction m generalizing lo with
  | nil => simp [Memory.set, Memory.wfFrom, hlo, ha]
  | cons c m ih =>
    obtain ⟨k, w⟩ := c
    simp only [Memory.wfFrom, Bool.and_eq_true, decide_eq_true_eq] at h
    simp only [Memory.set]
    split
    · next hk =>
      simp only [Memory.wfFrom, Bool.and_eq_true, decide_eq_true_eq]
      exact ⟨⟨hlo, ha⟩, ⟨by omega, h.1.2⟩, h.2⟩
    · split
      · simp only [Memory.wfFrom, Bool.and_eq_true, decide_eq_true_eq]
        exact h
      · simp only [Memory.wfFrom, Bool.and_eq_true, decide_eq_true_eq]
        exact ⟨h.1, ih (k + 1) h.2 (by omega)⟩

/-- A write keeps the canonical form. -/
theorem Memory.wf_set (m : Memory) (a : Word) (v : Byte) (h : Memory.wf m = true) :
    Memory.wf (Memory.set m a v) = true := Memory.wfFrom_set m 0 a v h (Nat.zero_le _)

theorem Memory.wf_setAll (m : Memory) (a : Word) (vs : List Byte) (h : Memory.wf m = true) :
    Memory.wf (Memory.setAll m a vs) = true := by
  induction vs generalizing m a with
  | nil => exact h
  | cons v vs ih => exact ih _ _ (Memory.wf_set m a v h)

theorem Memory.get_lt (m : Memory) (lo : Nat) (a : Word) (h : Memory.wfFrom lo m = true) (ha : a.toNat < lo) :
    Memory.get m a = none := by
  induction m generalizing lo with
  | nil => rfl
  | cons c m ih =>
    obtain ⟨k, w⟩ := c
    simp only [Memory.wfFrom, Bool.and_eq_true, decide_eq_true_eq] at h
    simp only [Memory.get, show ¬ k = a.toNat by omega, if_false]
    exact ih (k + 1) h.2 (by omega)

/-- In the canonical form, memories that read alike are equal. -/
theorem Memory.ext_get (m n : Memory) (hm : Memory.wf m = true) (hn : Memory.wf n = true)
    (h : ∀ a, Memory.get m a = Memory.get n a) : m = n := by
  unfold Memory.wf at hm hn
  generalize 0 = lo at hm hn
  induction m generalizing n lo with
  | nil =>
    cases n with
    | nil => rfl
    | cons c n =>
      obtain ⟨k, w⟩ := c
      simp only [Memory.wfFrom, Bool.and_eq_true, decide_eq_true_eq] at hn
      have := h (BitVec.ofNat 16 k)
      simp [Memory.get, Nat.mod_eq_of_lt hn.1.2] at this
  | cons c m ih =>
    obtain ⟨k, w⟩ := c
    simp only [Memory.wfFrom, Bool.and_eq_true, decide_eq_true_eq] at hm
    have hk : (BitVec.ofNat 16 k).toNat = k := by simp [Nat.mod_eq_of_lt hm.1.2]
    cases n with
    | nil =>
      have := h (BitVec.ofNat 16 k)
      simp [Memory.get, hk] at this
    | cons d n =>
      obtain ⟨l, u⟩ := d
      simp only [Memory.wfFrom, Bool.and_eq_true, decide_eq_true_eq] at hn
      have hl : (BitVec.ofNat 16 l).toNat = l := by simp [Nat.mod_eq_of_lt hn.1.2]
      have hkl : k = l := by
        rcases Nat.lt_trichotomy k l with hlt | heq | hgt
        · have := h (BitVec.ofNat 16 k)
          rw [Memory.get, hk, if_pos rfl, Memory.get, hk, if_neg (by omega),
            Memory.get_lt n (l + 1) _ hn.2 (by omega)] at this
          cases this
        · exact heq
        · have := h (BitVec.ofNat 16 l)
          rw [Memory.get, hl, if_neg (by omega), Memory.get, hl, if_pos rfl,
            Memory.get_lt m (k + 1) _ hm.2 (by omega)] at this
          cases this
      subst hkl
      have hw : w = u := by
        have := h (BitVec.ofNat 16 k)
        rw [Memory.get, hk, if_pos rfl, Memory.get, hk, if_pos rfl] at this
        exact Option.some.inj this
      subst hw
      congr 1
      refine ih n ?_ (k + 1) hm.2 hn.2
      intro a
      by_cases ha : k = a.toNat
      · rw [Memory.get_lt m (k + 1) a hm.2 (by omega), Memory.get_lt n (k + 1) a hn.2 (by omega)]
      · have := h a
        rwa [Memory.get, if_neg ha, Memory.get, if_neg ha] at this

/-! ## Reading and writing -/

theorem State.readByte_ok (s : State) (a : Word) (v : Byte) :
    s.readByte a = .ok v ↔ s.params.mapped a = true ∧ Memory.get s.mem a = some v := by
  unfold State.readByte
  split
  · next h => split <;> simp_all
  · next h => simp_all

theorem State.readByte_error (s : State) (a : Word) (e : Fault) :
    s.readByte a = .error e ↔ (s.params.mapped a = false ∧ e = .unmapped a) ∨
      (s.params.mapped a = true ∧ Memory.get s.mem a = none ∧ e = .unwritten a) := by
  unfold State.readByte
  cases hm : s.params.mapped a
  · simpa using eq_comm
  · cases hg : Memory.get s.mem a
    · simpa using eq_comm
    · simp

theorem State.readWord_ok (s : State) (a : Word) (v : Word) :
    s.readWord a = .ok v ↔ ∃ hi lo, s.readByte a = .ok hi ∧ s.readByte (a + 1#16) = .ok lo ∧ v = join hi lo := by
  unfold State.readWord
  cases h : s.readByte a with
  | error e => simp
  | ok hi =>
    cases h' : s.readByte (a + 1#16) with
    | error e => simp
    | ok lo =>
      simp only [Except.ok.injEq]
      constructor
      · rintro rfl; exact ⟨hi, lo, rfl, rfl, rfl⟩
      · rintro ⟨x, y, rfl, rfl, rfl⟩; rfl

theorem State.writeByte_ok (s t : State) (a : Word) (v : Byte) :
    s.writeByte a v = .ok t ↔
      s.params.mapped a = true ∧ s.params.isCode a = false ∧ t = s.setMem (Memory.set s.mem a v) := by
  unfold State.writeByte
  cases hm : s.params.mapped a
  · simp
  · cases hc : s.params.isCode a
    · simpa using eq_comm
    · simp

theorem State.writeByte_error (s : State) (a : Word) (v : Byte) (e : Fault) :
    s.writeByte a v = .error e ↔ (s.params.mapped a = false ∧ e = .unmapped a) ∨
      (s.params.mapped a = true ∧ s.params.isCode a = true ∧ e = .storeToCode a) := by
  unfold State.writeByte
  cases hm : s.params.mapped a
  · simpa using eq_comm
  · cases hc : s.params.isCode a
    · simp
    · simpa using eq_comm

theorem State.writeWord_ok (s t : State) (a v : Word) :
    s.writeWord a v = .ok t ↔
      s.params.mapped a = true ∧ s.params.isCode a = false ∧
      s.params.mapped (a + 1#16) = true ∧ s.params.isCode (a + 1#16) = false ∧
      t = s.setMem (Memory.set (Memory.set s.mem a (hiByte v)) (a + 1#16) (loByte v)) := by
  unfold State.writeWord
  split
  · next e h =>
    have := (State.writeByte_error s a (hiByte v) e).1 h
    constructor
    · intro h'; cases h'
    · rintro ⟨h1, h2, -⟩
      rcases this with ⟨h3, -⟩ | ⟨-, h3, -⟩ <;> simp_all
  · next u h =>
    obtain ⟨h1, h2, rfl⟩ := (State.writeByte_ok s u a (hiByte v)).1 h
    rw [State.writeByte_ok]
    simp [h1, h2, State.setMem]

/-- A store keeps the canonical form. -/
theorem State.writeByte_wf (s t : State) (a : Word) (v : Byte) (h : s.writeByte a v = .ok t)
    (hw : Memory.wf s.mem = true) : Memory.wf t.mem = true := by
  obtain ⟨-, -, rfl⟩ := (State.writeByte_ok s t a v).1 h
  exact Memory.wf_set s.mem a v hw

/-- A 16-bit store keeps the canonical form. -/
theorem State.writeWord_wf (s t : State) (a v : Word) (h : s.writeWord a v = .ok t)
    (hw : Memory.wf s.mem = true) : Memory.wf t.mem = true := by
  obtain ⟨-, -, -, -, rfl⟩ := (State.writeWord_ok s t a v).1 h
  exact Memory.wf_set _ _ _ (Memory.wf_set _ _ _ hw)

/-- Placing bytes keeps the canonical form, of memory and of the launch image. -/
theorem State.place_wf (s : State) (a : Word) (bs : List Byte) (hw : Memory.wf s.mem = true)
    (hi : Memory.wf s.params.image = true) :
    Memory.wf (s.place a bs).mem = true ∧ Memory.wf (s.place a bs).params.image = true :=
  ⟨Memory.wf_setAll s.mem a bs hw, Memory.wf_setAll s.params.image a bs hi⟩

/-- A fetch gives `v` exactly when the address is mapped and memory holds `v` there. -/
theorem State.fetchByte_ok (s : State) (a : Word) (v : Byte) :
    s.fetchByte a = .ok v ↔ s.params.mapped a = true ∧ Memory.get s.mem a = some v := by
  simp only [State.fetchByte, State.readByte]
  split
  · split <;> simp_all
  · simp_all

/-- A fetch depends on the parameters and on the byte at its address alone. -/
theorem State.fetchByte_congr (s t : State) (a : Word) (hp : t.params = s.params)
    (hm : Memory.get t.mem a = Memory.get s.mem a) : t.fetchByte a = s.fetchByte a := by
  simp only [State.fetchByte, State.readByte, hp, hm]

/-- The memory at reset has the canonical form. -/
theorem State.reset_mem_wf : Memory.wf State.reset.mem = true := rfl

end Sys2Proof.Machine
end

