-- ==== Sys2Proof/Laws/Operands.lean ====
section
/-! SUPPORT. What evaluating an operand and each shape of a meaning can do: one lemma for each. -/

namespace Sys2Proof.Machine

open Sys2Proof

/-- `t` is `s`, or `s` with one auto register stepped. -/
def Stepped (s t : State) : Prop := t = s ∨ ∃ r v, t = s.setAuto r v

theorem Stepped.keeps {s t : State} (h : Stepped s t) :
    t.a = s.a ∧ t.b = s.b ∧ t.pc = s.pc ∧ t.ccr = s.ccr ∧ t.mem = s.mem ∧ t.params = s.params ∧
      t.halted = s.halted ∧ t.drawn = s.drawn := by
  rcases h with rfl | ⟨r, v, rfl⟩ <;> simp

theorem IdxForm.ea_stepped (f : IdxForm) (next : Word) (s : State) (ea : Word) (t : State)
    (h : IdxForm.ea f next s = .ok (ea, t)) : Stepped s t := by
  cases f with
  | auto r m n =>
    cases m <;> (simp only [IdxForm.ea, Except.ok.injEq, Prod.mk.injEq] at h; exact .inr ⟨r, _, h.2.symm⟩)
  | ind16 r n =>
    simp only [IdxForm.ea] at h
    split at h
    · simp only [Except.ok.injEq, Prod.mk.injEq] at h; exact .inl h.2.symm
    · cases h
  | indD r =>
    simp only [IdxForm.ea] at h
    split at h
    · simp only [Except.ok.injEq, Prod.mk.injEq] at h; exact .inl h.2.symm
    · cases h
  | off5 | off9 | off16 | acc =>
    simp only [IdxForm.ea, Except.ok.injEq, Prod.mk.injEq] at h; exact .inl h.2.symm

theorem MemOp.ea_stepped (op : MemOp) (next : Word) (s : State) (ea : Word) (t : State)
    (h : MemOp.ea op next s = .ok (ea, t)) : Stepped s t := by
  cases op with
  | idx f => exact IdxForm.ea_stepped f next s ea t h
  | dir | ext => simp only [MemOp.ea, Except.ok.injEq, Prod.mk.injEq] at h; exact .inl h.2.symm

theorem RmwOp.ea_stepped (op : RmwOp) (next : Word) (s : State) (ea : Word) (t : State)
    (h : RmwOp.ea op next s = .ok (ea, t)) : Stepped s t := by
  cases op with
  | idx f => exact IdxForm.ea_stepped f next s ea t h
  | ext => simp only [RmwOp.ea, Except.ok.injEq, Prod.mk.injEq] at h; exact .inl h.2.symm

theorem MovDst.ea_stepped (op : MovDst) (next : Word) (s : State) (ea : Word) (t : State)
    (h : MovDst.ea op next s = .ok (ea, t)) : Stepped s t := by
  cases op with
  | idx f => exact IdxForm.ea_stepped f next s ea t h
  | ext => simp only [MovDst.ea, Except.ok.injEq, Prod.mk.injEq] at h; exact .inl h.2.symm

theorem read8At_ok (r : Except Fault (Word × State)) (v : Byte) (t : State) :
    read8At r = .ok (v, t) ↔ ∃ ea, r = .ok (ea, t) ∧ t.readByte ea = .ok v := by
  cases r with
  | error e => simp [read8At]
  | ok p =>
    obtain ⟨ea, u⟩ := p
    cases h : u.readByte ea with
    | error e =>
      simp only [read8At, h, Except.ok.injEq, Prod.mk.injEq, reduceCtorEq, false_iff, not_exists]
      rintro x ⟨⟨rfl, rfl⟩, h2⟩
      rw [h] at h2; cases h2
    | ok w =>
      simp only [read8At, h, Except.ok.injEq, Prod.mk.injEq]
      constructor
      · rintro ⟨rfl, rfl⟩; exact ⟨ea, ⟨rfl, rfl⟩, h⟩
      · rintro ⟨x, ⟨rfl, rfl⟩, h2⟩; rw [h] at h2; exact ⟨Except.ok.inj h2, rfl⟩

theorem read16At_ok (r : Except Fault (Word × State)) (v : Word) (t : State) :
    read16At r = .ok (v, t) ↔ ∃ ea, r = .ok (ea, t) ∧ t.readWord ea = .ok v := by
  cases r with
  | error e => simp [read16At]
  | ok p =>
    obtain ⟨ea, u⟩ := p
    cases h : u.readWord ea with
    | error e =>
      simp only [read16At, h, Except.ok.injEq, Prod.mk.injEq, reduceCtorEq, false_iff, not_exists]
      rintro x ⟨⟨rfl, rfl⟩, h2⟩
      rw [h] at h2; cases h2
    | ok w =>
      simp only [read16At, h, Except.ok.injEq, Prod.mk.injEq]
      constructor
      · rintro ⟨rfl, rfl⟩; exact ⟨ea, ⟨rfl, rfl⟩, h⟩
      · rintro ⟨x, ⟨rfl, rfl⟩, h2⟩; rw [h] at h2; exact ⟨Except.ok.inj h2, rfl⟩

theorem Src8.read_stepped (src : Src8) (next : Word) (s : State) (v : Byte) (t : State)
    (h : Src8.read src next s = .ok (v, t)) : Stepped s t := by
  cases src with
  | imm => simp only [Src8.read, Except.ok.injEq, Prod.mk.injEq] at h; exact .inl h.2.symm
  | dir | ext =>
    simp only [Src8.read] at h
    obtain ⟨ea, h1, -⟩ := (read8At_ok _ v t).1 h
    simp only [Except.ok.injEq, Prod.mk.injEq] at h1; exact .inl h1.2.symm
  | idx f =>
    simp only [Src8.read] at h
    obtain ⟨ea, h1, -⟩ := (read8At_ok _ v t).1 h
    exact IdxForm.ea_stepped f next s ea t h1

theorem Src16.read_stepped (src : Src16) (next : Word) (s : State) (v : Word) (t : State)
    (h : Src16.read src next s = .ok (v, t)) : Stepped s t := by
  cases src with
  | imm => simp only [Src16.read, Except.ok.injEq, Prod.mk.injEq] at h; exact .inl h.2.symm
  | dir | ext =>
    simp only [Src16.read] at h
    obtain ⟨ea, h1, -⟩ := (read16At_ok _ v t).1 h
    simp only [Except.ok.injEq, Prod.mk.injEq] at h1; exact .inl h1.2.symm
  | idx f =>
    simp only [Src16.read] at h
    obtain ⟨ea, h1, -⟩ := (read16At_ok _ v t).1 h
    exact IdxForm.ea_stepped f next s ea t h1

theorem RmwOp.read_stepped (op : RmwOp) (next : Word) (s : State) (v : Byte) (t : State)
    (h : RmwOp.read op next s = .ok (v, t)) : Stepped s t := by
  obtain ⟨ea, h1, -⟩ := (read8At_ok _ v t).1 h
  exact RmwOp.ea_stepped op next s ea t h1

theorem MovSrc8.read_stepped (src : MovSrc8) (next : Word) (s : State) (v : Byte) (t : State)
    (h : MovSrc8.read src next s = .ok (v, t)) : Stepped s t := by
  cases src with
  | imm => simp only [MovSrc8.read, Except.ok.injEq, Prod.mk.injEq] at h; exact .inl h.2.symm
  | ext =>
    simp only [MovSrc8.read] at h
    obtain ⟨ea, h1, -⟩ := (read8At_ok _ v t).1 h
    simp only [Except.ok.injEq, Prod.mk.injEq] at h1; exact .inl h1.2.symm
  | idx f =>
    simp only [MovSrc8.read] at h
    obtain ⟨ea, h1, -⟩ := (read8At_ok _ v t).1 h
    exact IdxForm.ea_stepped f next s ea t h1

theorem MovSrc16.read_stepped (src : MovSrc16) (next : Word) (s : State) (v : Word) (t : State)
    (h : MovSrc16.read src next s = .ok (v, t)) : Stepped s t := by
  cases src with
  | imm => simp only [MovSrc16.read, Except.ok.injEq, Prod.mk.injEq] at h; exact .inl h.2.symm
  | ext =>
    simp only [MovSrc16.read] at h
    obtain ⟨ea, h1, -⟩ := (read16At_ok _ v t).1 h
    simp only [Except.ok.injEq, Prod.mk.injEq] at h1; exact .inl h1.2.symm
  | idx f =>
    simp only [MovSrc16.read] at h
    obtain ⟨ea, h1, -⟩ := (read16At_ok _ v t).1 h
    exact IdxForm.ea_stepped f next s ea t h1

/-! ## The shapes -/

theorem orFault_next {α : Type} (r : Except Fault α) (k : α → Out) (t : State) :
    orFault r k = .next t ↔ ∃ v, r = .ok v ∧ k v = .next t := by
  cases r <;> simp [orFault]

theorem admitted_next (i : Instr) (o : Out) (t : State) :
    admitted i o = .next t ↔ i.wellFormed = true ∧ o = .next t := by
  unfold admitted; split <;> simp_all

theorem inherent_next (i : Instr) (f : State → State) (s t : State) :
    inherent i f s = .next t ↔ t = (f s).setPc (s.next i) := by
  simp [inherent, eq_comm]

theorem withSrc8_next (i : Instr) (src : Src8) (f : Byte → State → State) (s u : State) :
    withSrc8 i src f s = .next u ↔
      ∃ v t, Src8.read src (s.next i) s = .ok (v, t) ∧ u = (f v t).setPc (s.next i) := by
  simp [withSrc8, orFault_next, @eq_comm _ u]

theorem withSrc16_next (i : Instr) (src : Src16) (f : Word → State → State) (s u : State) :
    withSrc16 i src f s = .next u ↔
      ∃ v t, Src16.read src (s.next i) s = .ok (v, t) ∧ u = (f v t).setPc (s.next i) := by
  simp [withSrc16, orFault_next, @eq_comm _ u]

theorem store8_next (i : Instr) (op : MemOp) (reg : State → Byte) (s w : State) :
    store8 i op reg s = .next w ↔
      ∃ ea t u, MemOp.ea op (s.next i) s = .ok (ea, t) ∧ t.writeByte ea (reg t) = .ok u ∧
        w = (u.setCcr (u.ccr.logic8 (reg t))).setPc (s.next i) := by
  simp [store8, orFault_next, @eq_comm _ w]

theorem store16_next (i : Instr) (op : MemOp) (reg : State → Word) (s w : State) :
    store16 i op reg s = .next w ↔
      ∃ ea t u, MemOp.ea op (s.next i) s = .ok (ea, t) ∧ t.writeWord ea (reg t) = .ok u ∧
        w = (u.setCcr (u.ccr.logic16 (reg t))).setPc (s.next i) := by
  simp [store16, orFault_next, @eq_comm _ w]

theorem modifyAt_next (i : Instr) (r : Except Fault (Word × State)) (f : Byte → Ccr → Byte × Ccr) (s w : State) :
    modifyAt i r f s = .next w ↔
      ∃ ea t m u, r = .ok (ea, t) ∧ t.readByte ea = .ok m ∧ t.writeByte ea (f m t.ccr).1 = .ok u ∧
        w = (u.setCcr (f m t.ccr).2).setPc (s.next i) := by
  simp [modifyAt, orFault_next, @eq_comm _ w]

theorem branch_next (i : Instr) (taken : Bool) (offset : Word) (s t : State) :
    branch i taken offset s = .next t ↔
      t = s.setPc (if taken then s.next i + offset else s.next i) := by
  simp [branch, eq_comm]

end Sys2Proof.Machine
end

