-- ==== Sys2Proof/Laws/PerInstr.lean ====
section
/-! SUPPORT. Statements for all instructions, made per instruction. -/

namespace Sys2Proof.Laws.EncodedLength

/-- An instruction that the spec admits is a sequence of 1 to 6 bytes (30_encoding.md R80). -/
def Statement (i : Instr) : Prop := i.wellFormed = true → 1 ≤ i.length ∧ i.length ≤ 6

theorem idx_len (f : IdxForm) : f.bytes.length = 1 + f.extBytes := by cases f <;> rfl

theorem ext_le (f : IdxForm) : f.extBytes ≤ 2 := by cases f <;> simp [IdxForm.extBytes]

theorem src8_len (i d e x : Byte) (src : Src8) :
    1 ≤ (src.bytes i d e x).length ∧ (src.bytes i d e x).length ≤ 6 := by
  cases src with
  | idx f =>
    have := ext_le f
    simp only [Src8.bytes, List.length_cons, idx_len]; omega
  | imm | dir | ext => simp [Src8.bytes]

theorem src16_len (i d e x : Byte) (src : Src16) :
    1 ≤ (src.bytes i d e x).length ∧ (src.bytes i d e x).length ≤ 6 := by
  cases src with
  | idx f =>
    have := ext_le f
    simp only [Src16.bytes, List.length_cons, idx_len]; omega
  | imm | dir | ext => simp [Src16.bytes]

theorem rmw_len (e x : Byte) (op : RmwOp) : 1 ≤ (op.bytes e x).length ∧ (op.bytes e x).length ≤ 6 := by
  cases op with
  | idx f =>
    have := ext_le f
    simp only [RmwOp.bytes, List.length_cons, idx_len]; omega
  | ext => simp [RmwOp.bytes]

theorem mem_le (d e x : Byte) (op : MemOp) : 1 ≤ (op.bytes d e x).length ∧ (op.bytes d e x).length ≤ 4 := by
  cases op with
  | idx f =>
    have := ext_le f
    simp only [MemOp.bytes, List.length_cons, idx_len]; omega
  | dir | ext => simp [MemOp.bytes]

theorem mem_len (d e x : Byte) (op : MemOp) : 1 ≤ (op.bytes d e x).length ∧ (op.bytes d e x).length ≤ 6 := by
  have := mem_le d e x op; omega

theorem mem_len1 (d e x : Byte) (op : MemOp) (m : Byte) :
    1 ≤ (op.bytes d e x ++ [m]).length ∧ (op.bytes d e x ++ [m]).length ≤ 6 := by
  have := mem_le d e x op
  simp only [List.length_append, List.length_cons, List.length_nil]; omega

theorem mem_len2 (d e x : Byte) (op : MemOp) (m r : Byte) (_ : bitOperandOk op.form = true) :
    1 ≤ (op.bytes d e x ++ [m, r]).length ∧ (op.bytes d e x ++ [m, r]).length ≤ 6 := by
  have := mem_le d e x op
  simp only [List.length_append, List.length_cons, List.length_nil]; omega

theorem mov_ext (f : IdxForm) (h : movOperandOk (some f) = true) : f.bytes.length = 1 := by
  simp only [movOperandOk, Option.all_some, Bool.and_eq_true, beq_iff_eq] at h
  simp [idx_len, h.1.1]

theorem moveb_len (src : MovSrc8) (dst : MovDst) (h : (Instr.movb src dst).wellFormed = true) :
    1 ≤ (encodeMovb src dst).length ∧ (encodeMovb src dst).length ≤ 6 := by
  simp only [Instr.wellFormed, Bool.and_eq_true] at h
  cases src <;> cases dst <;> simp [encodeMovb] <;>
    first
      | (have h1 := mov_ext _ h.1.1; have h2 := mov_ext _ h.1.2; omega)
      | (have h1 := mov_ext _ h.1.1; omega)
      | (have h2 := mov_ext _ h.1.2; omega)

theorem movew_len (src : MovSrc16) (dst : MovDst) (h : (Instr.movw src dst).wellFormed = true) :
    1 ≤ (encodeMovw src dst).length ∧ (encodeMovw src dst).length ≤ 6 := by
  simp only [Instr.wellFormed, Bool.and_eq_true] at h
  cases src <;> cases dst <;> simp [encodeMovw] <;>
    first
      | (have h1 := mov_ext _ h.1.1; have h2 := mov_ext _ h.1.2; omega)
      | (have h1 := mov_ext _ h.1.1; omega)
      | (have h2 := mov_ext _ h.1.2; omega)

theorem ldaa (src : Src8) : Statement (.ldaa src) :=
  fun _ => src8_len _ _ _ _ src

theorem ldab (src : Src8) : Statement (.ldab src) :=
  fun _ => src8_len _ _ _ _ src

theorem ldd (src : Src16) : Statement (.ldd src) :=
  fun _ => src16_len _ _ _ _ src

theorem ldx (src : Src16) : Statement (.ldx src) :=
  fun _ => src16_len _ _ _ _ src

theorem ldy (src : Src16) : Statement (.ldy src) :=
  fun _ => src16_len _ _ _ _ src

theorem lds (src : Src16) : Statement (.lds src) :=
  fun _ => src16_len _ _ _ _ src

theorem staa (op : MemOp) : Statement (.staa op) :=
  fun _ => mem_len _ _ _ op

theorem stab (op : MemOp) : Statement (.stab op) :=
  fun _ => mem_len _ _ _ op

theorem std (op : MemOp) : Statement (.std op) :=
  fun _ => mem_len _ _ _ op

theorem stx (op : MemOp) : Statement (.stx op) :=
  fun _ => mem_len _ _ _ op

theorem sty (op : MemOp) : Statement (.sty op) :=
  fun _ => mem_len _ _ _ op

theorem sts (op : MemOp) : Statement (.sts op) :=
  fun _ => mem_len _ _ _ op

theorem tab : Statement .tab :=
  fun _ => ⟨by decide, by decide⟩

theorem tba : Statement .tba :=
  fun _ => ⟨by decide, by decide⟩

theorem tap : Statement .tap :=
  fun _ => ⟨by decide, by decide⟩

theorem tpa : Statement .tpa :=
  fun _ => ⟨by decide, by decide⟩

theorem movb (src : MovSrc8) (dst : MovDst) : Statement (.movb src dst) :=
  fun h => moveb_len src dst h

theorem movw (src : MovSrc16) (dst : MovDst) : Statement (.movw src dst) :=
  fun h => movew_len src dst h

theorem lsl (op : RmwOp) : Statement (.lsl op) :=
  fun _ => rmw_len _ _ op

theorem lsla : Statement .lsla :=
  fun _ => ⟨by decide, by decide⟩

theorem lslb : Statement .lslb :=
  fun _ => ⟨by decide, by decide⟩

theorem lsld : Statement .lsld :=
  fun _ => ⟨by decide, by decide⟩

theorem lsr (op : RmwOp) : Statement (.lsr op) :=
  fun _ => rmw_len _ _ op

theorem lsra : Statement .lsra :=
  fun _ => ⟨by decide, by decide⟩

theorem lsrb : Statement .lsrb :=
  fun _ => ⟨by decide, by decide⟩

theorem lsrd : Statement .lsrd :=
  fun _ => ⟨by decide, by decide⟩

theorem asl (op : RmwOp) : Statement (.asl op) :=
  fun _ => rmw_len _ _ op

theorem asla : Statement .asla :=
  fun _ => ⟨by decide, by decide⟩

theorem aslb : Statement .aslb :=
  fun _ => ⟨by decide, by decide⟩

theorem asld : Statement .asld :=
  fun _ => ⟨by decide, by decide⟩

theorem asr (op : RmwOp) : Statement (.asr op) :=
  fun _ => rmw_len _ _ op

theorem asra : Statement .asra :=
  fun _ => ⟨by decide, by decide⟩

theorem asrb : Statement .asrb :=
  fun _ => ⟨by decide, by decide⟩

theorem rol (op : RmwOp) : Statement (.rol op) :=
  fun _ => rmw_len _ _ op

theorem rola : Statement .rola :=
  fun _ => ⟨by decide, by decide⟩

theorem rolb : Statement .rolb :=
  fun _ => ⟨by decide, by decide⟩

theorem ror (op : RmwOp) : Statement (.ror op) :=
  fun _ => rmw_len _ _ op

theorem rora : Statement .rora :=
  fun _ => ⟨by decide, by decide⟩

theorem rorb : Statement .rorb :=
  fun _ => ⟨by decide, by decide⟩

theorem aba : Statement .aba :=
  fun _ => ⟨by decide, by decide⟩

theorem abx : Statement .abx :=
  fun _ => ⟨by decide, by decide⟩

theorem aby : Statement .aby :=
  fun _ => ⟨by decide, by decide⟩

theorem adda (src : Src8) : Statement (.adda src) :=
  fun _ => src8_len _ _ _ _ src

theorem addb (src : Src8) : Statement (.addb src) :=
  fun _ => src8_len _ _ _ _ src

theorem addd (src : Src16) : Statement (.addd src) :=
  fun _ => src16_len _ _ _ _ src

theorem adca (src : Src8) : Statement (.adca src) :=
  fun _ => src8_len _ _ _ _ src

theorem adcb (src : Src8) : Statement (.adcb src) :=
  fun _ => src8_len _ _ _ _ src

theorem sba : Statement .sba :=
  fun _ => ⟨by decide, by decide⟩

theorem suba (src : Src8) : Statement (.suba src) :=
  fun _ => src8_len _ _ _ _ src

theorem subb (src : Src8) : Statement (.subb src) :=
  fun _ => src8_len _ _ _ _ src

theorem subd (src : Src16) : Statement (.subd src) :=
  fun _ => src16_len _ _ _ _ src

theorem sbca (src : Src8) : Statement (.sbca src) :=
  fun _ => src8_len _ _ _ _ src

theorem sbcb (src : Src8) : Statement (.sbcb src) :=
  fun _ => src8_len _ _ _ _ src

theorem dec (op : RmwOp) : Statement (.dec op) :=
  fun _ => rmw_len _ _ op

theorem deca : Statement .deca :=
  fun _ => ⟨by decide, by decide⟩

theorem decb : Statement .decb :=
  fun _ => ⟨by decide, by decide⟩

theorem des : Statement .des :=
  fun _ => ⟨by decide, by decide⟩

theorem dex : Statement .dex :=
  fun _ => ⟨by decide, by decide⟩

theorem dey : Statement .dey :=
  fun _ => ⟨by decide, by decide⟩

theorem inc (op : RmwOp) : Statement (.inc op) :=
  fun _ => rmw_len _ _ op

theorem inca : Statement .inca :=
  fun _ => ⟨by decide, by decide⟩

theorem incb : Statement .incb :=
  fun _ => ⟨by decide, by decide⟩

theorem ins : Statement .ins :=
  fun _ => ⟨by decide, by decide⟩

theorem inx : Statement .inx :=
  fun _ => ⟨by decide, by decide⟩

theorem iny : Statement .iny :=
  fun _ => ⟨by decide, by decide⟩

theorem anda (src : Src8) : Statement (.anda src) :=
  fun _ => src8_len _ _ _ _ src

theorem andb (src : Src8) : Statement (.andb src) :=
  fun _ => src8_len _ _ _ _ src

theorem andcc (mask : Byte) : Statement (.andcc mask) :=
  fun _ => ⟨Nat.le_of_ble_eq_true rfl, Nat.le_of_ble_eq_true rfl⟩

theorem eora (src : Src8) : Statement (.eora src) :=
  fun _ => src8_len _ _ _ _ src

theorem eorb (src : Src8) : Statement (.eorb src) :=
  fun _ => src8_len _ _ _ _ src

theorem oraa (src : Src8) : Statement (.oraa src) :=
  fun _ => src8_len _ _ _ _ src

theorem orab (src : Src8) : Statement (.orab src) :=
  fun _ => src8_len _ _ _ _ src

theorem orcc (mask : Byte) : Statement (.orcc mask) :=
  fun _ => ⟨Nat.le_of_ble_eq_true rfl, Nat.le_of_ble_eq_true rfl⟩

theorem clc : Statement .clc :=
  fun _ => ⟨by decide, by decide⟩

theorem cli : Statement .cli :=
  fun _ => ⟨by decide, by decide⟩

theorem clv : Statement .clv :=
  fun _ => ⟨by decide, by decide⟩

theorem com (op : RmwOp) : Statement (.com op) :=
  fun _ => rmw_len _ _ op

theorem coma : Statement .coma :=
  fun _ => ⟨by decide, by decide⟩

theorem comb : Statement .comb :=
  fun _ => ⟨by decide, by decide⟩

theorem neg (op : RmwOp) : Statement (.neg op) :=
  fun _ => rmw_len _ _ op

theorem nega : Statement .nega :=
  fun _ => ⟨by decide, by decide⟩

theorem negb : Statement .negb :=
  fun _ => ⟨by decide, by decide⟩

theorem bclr (op : MemOp) (mask : Byte) : Statement (.bclr op mask) :=
  fun _ => mem_len1 _ _ _ op mask

theorem bita (src : Src8) : Statement (.bita src) :=
  fun _ => src8_len _ _ _ _ src

theorem bitb (src : Src8) : Statement (.bitb src) :=
  fun _ => src8_len _ _ _ _ src

theorem bset (op : MemOp) (mask : Byte) : Statement (.bset op mask) :=
  fun _ => mem_len1 _ _ _ op mask

theorem cba : Statement .cba :=
  fun _ => ⟨by decide, by decide⟩

theorem cmpa (src : Src8) : Statement (.cmpa src) :=
  fun _ => src8_len _ _ _ _ src

theorem cmpb (src : Src8) : Statement (.cmpb src) :=
  fun _ => src8_len _ _ _ _ src

theorem cpd (src : Src16) : Statement (.cpd src) :=
  fun _ => src16_len _ _ _ _ src

theorem cps (src : Src16) : Statement (.cps src) :=
  fun _ => src16_len _ _ _ _ src

theorem cpx (src : Src16) : Statement (.cpx src) :=
  fun _ => src16_len _ _ _ _ src

theorem cpy (src : Src16) : Statement (.cpy src) :=
  fun _ => src16_len _ _ _ _ src

theorem tst (op : RmwOp) : Statement (.tst op) :=
  fun _ => rmw_len _ _ op

theorem tsta : Statement .tsta :=
  fun _ => ⟨by decide, by decide⟩

theorem tstb : Statement .tstb :=
  fun _ => ⟨by decide, by decide⟩

theorem brn (rel : Byte) : Statement (.brn rel) :=
  fun _ => ⟨Nat.le_of_ble_eq_true rfl, Nat.le_of_ble_eq_true rfl⟩

theorem bra (rel : Byte) : Statement (.bra rel) :=
  fun _ => ⟨Nat.le_of_ble_eq_true rfl, Nat.le_of_ble_eq_true rfl⟩

theorem bcc (rel : Byte) : Statement (.bcc rel) :=
  fun _ => ⟨Nat.le_of_ble_eq_true rfl, Nat.le_of_ble_eq_true rfl⟩

theorem bcs (rel : Byte) : Statement (.bcs rel) :=
  fun _ => ⟨Nat.le_of_ble_eq_true rfl, Nat.le_of_ble_eq_true rfl⟩

theorem beq (rel : Byte) : Statement (.beq rel) :=
  fun _ => ⟨Nat.le_of_ble_eq_true rfl, Nat.le_of_ble_eq_true rfl⟩

theorem bne (rel : Byte) : Statement (.bne rel) :=
  fun _ => ⟨Nat.le_of_ble_eq_true rfl, Nat.le_of_ble_eq_true rfl⟩

theorem bmi (rel : Byte) : Statement (.bmi rel) :=
  fun _ => ⟨Nat.le_of_ble_eq_true rfl, Nat.le_of_ble_eq_true rfl⟩

theorem bpl (rel : Byte) : Statement (.bpl rel) :=
  fun _ => ⟨Nat.le_of_ble_eq_true rfl, Nat.le_of_ble_eq_true rfl⟩

theorem bvs (rel : Byte) : Statement (.bvs rel) :=
  fun _ => ⟨Nat.le_of_ble_eq_true rfl, Nat.le_of_ble_eq_true rfl⟩

theorem bvc (rel : Byte) : Statement (.bvc rel) :=
  fun _ => ⟨Nat.le_of_ble_eq_true rfl, Nat.le_of_ble_eq_true rfl⟩

theorem bhs (rel : Byte) : Statement (.bhs rel) :=
  fun _ => ⟨Nat.le_of_ble_eq_true rfl, Nat.le_of_ble_eq_true rfl⟩

theorem bhi (rel : Byte) : Statement (.bhi rel) :=
  fun _ => ⟨Nat.le_of_ble_eq_true rfl, Nat.le_of_ble_eq_true rfl⟩

theorem bls (rel : Byte) : Statement (.bls rel) :=
  fun _ => ⟨Nat.le_of_ble_eq_true rfl, Nat.le_of_ble_eq_true rfl⟩

theorem blo (rel : Byte) : Statement (.blo rel) :=
  fun _ => ⟨Nat.le_of_ble_eq_true rfl, Nat.le_of_ble_eq_true rfl⟩

theorem bge (rel : Byte) : Statement (.bge rel) :=
  fun _ => ⟨Nat.le_of_ble_eq_true rfl, Nat.le_of_ble_eq_true rfl⟩

theorem bgt (rel : Byte) : Statement (.bgt rel) :=
  fun _ => ⟨Nat.le_of_ble_eq_true rfl, Nat.le_of_ble_eq_true rfl⟩

theorem ble (rel : Byte) : Statement (.ble rel) :=
  fun _ => ⟨Nat.le_of_ble_eq_true rfl, Nat.le_of_ble_eq_true rfl⟩

theorem blt (rel : Byte) : Statement (.blt rel) :=
  fun _ => ⟨Nat.le_of_ble_eq_true rfl, Nat.le_of_ble_eq_true rfl⟩

theorem lbrn (rel : Word) : Statement (.lbrn rel) :=
  fun _ => ⟨Nat.le_of_ble_eq_true rfl, Nat.le_of_ble_eq_true rfl⟩

theorem lbra (rel : Word) : Statement (.lbra rel) :=
  fun _ => ⟨Nat.le_of_ble_eq_true rfl, Nat.le_of_ble_eq_true rfl⟩

theorem lbcc (rel : Word) : Statement (.lbcc rel) :=
  fun _ => ⟨Nat.le_of_ble_eq_true rfl, Nat.le_of_ble_eq_true rfl⟩

theorem lbcs (rel : Word) : Statement (.lbcs rel) :=
  fun _ => ⟨Nat.le_of_ble_eq_true rfl, Nat.le_of_ble_eq_true rfl⟩

theorem lbeq (rel : Word) : Statement (.lbeq rel) :=
  fun _ => ⟨Nat.le_of_ble_eq_true rfl, Nat.le_of_ble_eq_true rfl⟩

theorem lbne (rel : Word) : Statement (.lbne rel) :=
  fun _ => ⟨Nat.le_of_ble_eq_true rfl, Nat.le_of_ble_eq_true rfl⟩

theorem lbmi (rel : Word) : Statement (.lbmi rel) :=
  fun _ => ⟨Nat.le_of_ble_eq_true rfl, Nat.le_of_ble_eq_true rfl⟩

theorem lbpl (rel : Word) : Statement (.lbpl rel) :=
  fun _ => ⟨Nat.le_of_ble_eq_true rfl, Nat.le_of_ble_eq_true rfl⟩

theorem lbvs (rel : Word) : Statement (.lbvs rel) :=
  fun _ => ⟨Nat.le_of_ble_eq_true rfl, Nat.le_of_ble_eq_true rfl⟩

theorem lbvc (rel : Word) : Statement (.lbvc rel) :=
  fun _ => ⟨Nat.le_of_ble_eq_true rfl, Nat.le_of_ble_eq_true rfl⟩

theorem lbhs (rel : Word) : Statement (.lbhs rel) :=
  fun _ => ⟨Nat.le_of_ble_eq_true rfl, Nat.le_of_ble_eq_true rfl⟩

theorem lbhi (rel : Word) : Statement (.lbhi rel) :=
  fun _ => ⟨Nat.le_of_ble_eq_true rfl, Nat.le_of_ble_eq_true rfl⟩

theorem lbls (rel : Word) : Statement (.lbls rel) :=
  fun _ => ⟨Nat.le_of_ble_eq_true rfl, Nat.le_of_ble_eq_true rfl⟩

theorem lblo (rel : Word) : Statement (.lblo rel) :=
  fun _ => ⟨Nat.le_of_ble_eq_true rfl, Nat.le_of_ble_eq_true rfl⟩

theorem lbge (rel : Word) : Statement (.lbge rel) :=
  fun _ => ⟨Nat.le_of_ble_eq_true rfl, Nat.le_of_ble_eq_true rfl⟩

theorem lbgt (rel : Word) : Statement (.lbgt rel) :=
  fun _ => ⟨Nat.le_of_ble_eq_true rfl, Nat.le_of_ble_eq_true rfl⟩

theorem lble (rel : Word) : Statement (.lble rel) :=
  fun _ => ⟨Nat.le_of_ble_eq_true rfl, Nat.le_of_ble_eq_true rfl⟩

theorem lblt (rel : Word) : Statement (.lblt rel) :=
  fun _ => ⟨Nat.le_of_ble_eq_true rfl, Nat.le_of_ble_eq_true rfl⟩

theorem brset (op : MemOp) (mask : Byte) (rel : Byte) : Statement (.brset op mask rel) :=
  fun h => mem_len2 _ _ _ op mask rel (by simpa [Instr.wellFormed] using h)

theorem jsr (op : MemOp) : Statement (.jsr op) :=
  fun _ => mem_len _ _ _ op

theorem rts : Statement .rts :=
  fun _ => ⟨by decide, by decide⟩

theorem swi : Statement .swi :=
  fun _ => ⟨by decide, by decide⟩

end Sys2Proof.Laws.EncodedLength
end

