-- ==== Sys2Proof/Machine/Assembler.lean ====
section
/-! DEFINITION. The assembler: from source text to bytes, code ranges and load records
(48_assembler_directives.md R390 to R408; 45_branch.md R361). It stands outside the machine: no step uses it.
The conventions that the source leaves open are those of logs 18, 19, 22 and 23. -/

namespace Sys2Proof.Machine

open Sys2Proof

/-! ## Values (R391, R393) -/

/-- An operand value: a number, or a label. -/
inductive Value where
  | num (n : Int)
  | label (name : List Char)
deriving DecidableEq, Repr

/-- Labels and their values. -/
abbrev Symbols := List (List Char × Int)

/-- The value of a label. -/
def lookup : Symbols → List Char → Option Int
  | [], _ => none
  | (k, v) :: t, name => if k = name then some v else lookup t name

/-- The value of an operand, if its label is known. -/
def Value.eval (env : Symbols) : Value → Option Int
  | .num n => some n
  | .label name => lookup env name

/-- Digits in a base, most significant first. DESIGN CHOICE (log 22): a hexadecimal digit may be a small letter. -/
def digits (base : Nat) : Nat → List Char → Option Nat
  | acc, [] => some acc
  | acc, c :: cs =>
    match hexDigit c with
    | some d => if d < base then digits base (acc * base + d) cs else none
    | none => none

/-- An unsigned number: `$` hexadecimal, `%` binary, no mark decimal (R393). -/
def parseNat : List Char → Option Nat
  | '$' :: c :: cs => digits 16 0 (c :: cs)
  | '%' :: c :: cs => digits 2 0 (c :: cs)
  | c :: cs => digits 10 0 (c :: cs)
  | [] => none

/-- A number with an optional minus sign (R393). DESIGN CHOICE (log 22): the sign stands before `$` and `%` too. -/
def parseInt : List Char → Option Int
  | '-' :: cs => (parseNat cs).map fun n => -(n : Int)
  | cs => (parseNat cs).map fun n => (n : Int)

/-- A blank or a tab. -/
def isBlank (c : Char) : Bool := c == ' ' || c == '\t'

/-- A number, or else a label; an empty text is neither. DESIGN CHOICE (logs 22, 23): any other text may be a label,
but for one with a blank or a tab in it, which is an error. -/
def parseValue (cs : List Char) : Option Value :=
  match parseInt cs with
  | some n => some (.num n)
  | none => if cs.isEmpty || cs.any isBlank then none else some (.label cs)

/-! ## The source line (R390) -/

/-- Drop leading blanks. -/
def dropBlanks : List Char → List Char
  | [] => []
  | c :: cs => if isBlank c then dropBlanks cs else c :: cs

/-- Drop blanks at both ends. -/
def trim (cs : List Char) : List Char := (dropBlanks (dropBlanks cs).reverse).reverse

/-- A line before its comment, and the comment: from a `;` to the end of the line (R390). DESIGN CHOICE (log 22): a `;`
between quotation marks, or after a mark that nothing closes, is part of the text. -/
def cutComment (quoted : Bool) : List Char → List Char × List Char
  | [] => ([], [])
  | c :: cs =>
    if c = ';' && !quoted then ([], c :: cs)
    else ((c :: (cutComment (if c = '"' then !quoted else quoted) cs).1),
      (cutComment (if c = '"' then !quoted else quoted) cs).2)

/-- The first word of a text, and the rest. -/
def word1 : List Char → List Char × List Char
  | [] => ([], [])
  | c :: cs => if isBlank c then ([], cs) else ((c :: (word1 cs).1), (word1 cs).2)

/-- Cut at the commas outside square brackets. -/
def splitCommas (depth : Nat) : List Char → List (List Char)
  | [] => [[]]
  | c :: cs =>
    if c = ',' && depth == 0 then [] :: splitCommas depth cs
    else
      let depth' := if c = '[' then depth + 1 else if c = ']' then depth - 1 else depth
      match splitCommas depth' cs with
      | [] => [[c]]
      | p :: ps => (c :: p) :: ps

/-- The operand pieces of a line; no operand text gives no piece. DESIGN CHOICE (log 22): commas alone separate them,
and blanks and tabs beside a comma mean nothing. -/
def pieces (cs : List Char) : List (List Char) :=
  if (trim cs).isEmpty then [] else (splitCommas 0 cs).map trim

/-! ## Operands (R394) -/

/-- An operand as its text selects it. -/
inductive Operand where
  | imm (v : Value)                                 -- `#value`
  | addr (v : Value)                                -- `value`
  | off (v : Value) (r : BaseReg)                   -- `n,r`
  | auto (v : Value) (plus : Bool) (m : AutoMode) (r : AutoReg)  -- `n,+r` `n,-r` `n,r+` `n,r-`
  | acc (o : AccOffset) (r : BaseReg)               -- `A,r` `B,r` `D,r`
  | ind (v : Value) (r : BaseReg)                   -- `[n,r]`
  | indD (r : BaseReg)                              -- `[D,r]`
deriving DecidableEq, Repr

/-- A base register by name. -/
def parseBase : List Char → Option BaseReg
  | ['X'] => some .x
  | ['Y'] => some .y
  | ['S', 'P'] => some .sp
  | ['P', 'C'] => some .pc
  | _ => none

/-- A register of an auto form by name. -/
def parseAutoReg : List Char → Option AutoReg
  | ['X'] => some .x
  | ['Y'] => some .y
  | ['S', 'P'] => some .sp
  | _ => none

/-- An accumulator by name. -/
def parseAcc : List Char → Option AccOffset
  | ['A'] => some .a
  | ['B'] => some .b
  | ['D'] => some .d
  | _ => none

/-- `+r`, `-r`, `r+`, `r-`: increment or not, before or after, the register. -/
def parseAuto (cs : List Char) : Option (Bool × AutoMode × AutoReg) :=
  match cs with
  | '+' :: r => (parseAutoReg r).map (true, .pre, ·)
  | '-' :: r => (parseAutoReg r).map (false, .pre, ·)
  | _ =>
    match cs.reverse with
    | '+' :: r => (parseAutoReg r.reverse).map (true, .post, ·)
    | '-' :: r => (parseAutoReg r.reverse).map (false, .post, ·)
    | _ => none

/-- The offset of `n,r`; nothing before the comma is 0 (30_encoding.md R101). -/
def parseOffset (cs : List Char) : Option Value := if cs.isEmpty then some (.num 0) else parseValue cs

/-- Two pieces as one indexed operand. DESIGN CHOICE (log 22): A, B and D before a register are the accumulators, not
labels. -/
def parseIndexed (p q : List Char) : Option Operand :=
  match parseBase q with
  | some r =>
    match parseAcc p with
    | some o => some (.acc o r)
    | none => (parseOffset p).map (.off · r)
  | none =>
    match parseAuto q with
    | some (plus, m, r) => (parseOffset p).map (.auto · plus m r)
    | none => none

/-- The text inside square brackets: `n,r` or `D,r` (R394). DESIGN CHOICE (log 23): `,r` without an offset, which
R394 and 30_encoding.md R104 do not give there, is an error. -/
def parseBracket (cs : List Char) : Option Operand :=
  match (splitCommas 0 cs.dropLast).map trim with
  | [p, q] => do
    let r ← parseBase q
    if parseAcc p = some .d then pure (.indD r) else pure (.ind (← parseValue p) r)
  | _ => none

/-- A piece that is an operand by itself. -/
def parseSingle (p : List Char) : Option Operand :=
  match p with
  | '#' :: v => (parseValue v).map .imm
  | '[' :: v => if v.getLast? = some ']' then parseBracket v else none
  | _ => (parseValue p).map .addr

/-- The operands of a line; a piece that names a register makes one indexed operand with the piece before it. -/
def parseOperands : List (List Char) → Option (List Operand)
  | [] => some []
  | p :: q :: ps =>
    match parseIndexed p q with
    | some o => (parseOperands ps).map (o :: ·)
    | none => do
      let o ← parseSingle p
      (parseOperands (q :: ps)).map (o :: ·)
  | [p] => (parseSingle p).map ([·])

/-! ## Mnemonics -/

/-- What operands a mnemonic takes, and the instruction they make. -/
inductive Shape where
  | inh (i : Instr)
  | imm8 (mk : Byte → Instr)
  | src8 (mk : Src8 → Instr)
  | src16 (mk : Src16 → Instr)
  | mem (mk : MemOp → Instr)
  | rmw (mk : RmwOp → Instr)
  | mask (mk : MemOp → Byte → Instr)
  | maskRel (mk : MemOp → Byte → Byte → Instr)
  | rel8 (mk : Byte → Instr)
  | rel16 (mk : Word → Instr)
  | movb
  | movw

/-- Mnemonics, part 1. -/
def mnemonics1 : List (String × Shape) :=
  [("LDAA", .src8 .ldaa), ("LDAB", .src8 .ldab), ("LDD", .src16 .ldd), ("LDX", .src16 .ldx),
   ("LDY", .src16 .ldy), ("LDS", .src16 .lds), ("STAA", .mem .staa), ("STAB", .mem .stab), ("STD", .mem .std),
   ("STX", .mem .stx), ("STY", .mem .sty), ("STS", .mem .sts), ("TAB", .inh .tab), ("TBA", .inh .tba),
   ("TAP", .inh .tap), ("TPA", .inh .tpa), ("MOVB", .movb), ("MOVW", .movw), ("LSL", .rmw .lsl),
   ("LSLA", .inh .lsla), ("LSLB", .inh .lslb), ("LSLD", .inh .lsld), ("LSR", .rmw .lsr), ("LSRA", .inh .lsra),
   ("LSRB", .inh .lsrb), ("LSRD", .inh .lsrd), ("ASL", .rmw .asl), ("ASLA", .inh .asla), ("ASLB", .inh .aslb),
   ("ASLD", .inh .asld), ("ASR", .rmw .asr), ("ASRA", .inh .asra), ("ASRB", .inh .asrb), ("ROL", .rmw .rol)]

/-- Mnemonics, part 2. -/
def mnemonics2 : List (String × Shape) :=
  [("ROLA", .inh .rola), ("ROLB", .inh .rolb), ("ROR", .rmw .ror), ("RORA", .inh .rora), ("RORB", .inh .rorb),
   ("ABA", .inh .aba), ("ABX", .inh .abx), ("ABY", .inh .aby), ("ADDA", .src8 .adda), ("ADDB", .src8 .addb),
   ("ADDD", .src16 .addd), ("ADCA", .src8 .adca), ("ADCB", .src8 .adcb), ("SBA", .inh .sba),
   ("SUBA", .src8 .suba), ("SUBB", .src8 .subb), ("SUBD", .src16 .subd), ("SBCA", .src8 .sbca),
   ("SBCB", .src8 .sbcb), ("DEC", .rmw .dec), ("DECA", .inh .deca), ("DECB", .inh .decb), ("DES", .inh .des),
   ("DEX", .inh .dex), ("DEY", .inh .dey), ("INC", .rmw .inc), ("INCA", .inh .inca), ("INCB", .inh .incb),
   ("INS", .inh .ins), ("INX", .inh .inx), ("INY", .inh .iny), ("ANDA", .src8 .anda), ("ANDB", .src8 .andb),
   ("ANDCC", .imm8 .andcc)]

/-- Mnemonics, part 3. -/
def mnemonics3 : List (String × Shape) :=
  [("EORA", .src8 .eora), ("EORB", .src8 .eorb), ("ORAA", .src8 .oraa), ("ORAB", .src8 .orab),
   ("ORCC", .imm8 .orcc), ("CLC", .inh .clc), ("CLI", .inh .cli), ("CLV", .inh .clv), ("COM", .rmw .com),
   ("COMA", .inh .coma), ("COMB", .inh .comb), ("NEG", .rmw .neg), ("NEGA", .inh .nega), ("NEGB", .inh .negb),
   ("BCLR", .mask .bclr), ("BITA", .src8 .bita), ("BITB", .src8 .bitb), ("BSET", .mask .bset),
   ("CBA", .inh .cba), ("CMPA", .src8 .cmpa), ("CMPB", .src8 .cmpb), ("CPD", .src16 .cpd),
   ("CPS", .src16 .cps), ("CPX", .src16 .cpx), ("CPY", .src16 .cpy), ("TST", .rmw .tst), ("TSTA", .inh .tsta),
   ("TSTB", .inh .tstb), ("BRN", .rel8 .brn), ("BRA", .rel8 .bra), ("BCC", .rel8 .bcc), ("BCS", .rel8 .bcs),
   ("BEQ", .rel8 .beq), ("BNE", .rel8 .bne)]

/-- Mnemonics, part 4. -/
def mnemonics4 : List (String × Shape) :=
  [("BMI", .rel8 .bmi), ("BPL", .rel8 .bpl), ("BVS", .rel8 .bvs), ("BVC", .rel8 .bvc), ("BHS", .rel8 .bhs),
   ("BHI", .rel8 .bhi), ("BLS", .rel8 .bls), ("BLO", .rel8 .blo), ("BGE", .rel8 .bge), ("BGT", .rel8 .bgt),
   ("BLE", .rel8 .ble), ("BLT", .rel8 .blt), ("LBRN", .rel16 .lbrn), ("LBRA", .rel16 .lbra),
   ("LBCC", .rel16 .lbcc), ("LBCS", .rel16 .lbcs), ("LBEQ", .rel16 .lbeq), ("LBNE", .rel16 .lbne),
   ("LBMI", .rel16 .lbmi), ("LBPL", .rel16 .lbpl), ("LBVS", .rel16 .lbvs), ("LBVC", .rel16 .lbvc),
   ("LBHS", .rel16 .lbhs), ("LBHI", .rel16 .lbhi), ("LBLS", .rel16 .lbls), ("LBLO", .rel16 .lblo),
   ("LBGE", .rel16 .lbge), ("LBGT", .rel16 .lbgt), ("LBLE", .rel16 .lble), ("LBLT", .rel16 .lblt),
   ("BRSET", .maskRel .brset), ("JSR", .mem .jsr), ("RTS", .inh .rts), ("SWI", .inh .swi)]

/-- The 136 mnemonics (00_scope.md R4; R392, R396). -/
def mnemonics : List (String × Shape) := mnemonics1 ++ mnemonics2 ++ mnemonics3 ++ mnemonics4

/-- The shape of a mnemonic. -/
def shapeOf (name : List Char) : Option Shape := (mnemonics.find? (·.1.toList == name)).map (·.2)

/-! ## From operands to instructions

`full` gives the values of operands, `size` those that the choice of a form looks at: the shortest form that holds
the value (R394; 92_eei_decisions.md D23). While labels are being settled `size` holds those known so far, and a form
whose value is not known yet is the longest one (log 18); when they are settled the two are the same. -/

/-- What the choice of a form may look at. -/
structure Env where
  size : Symbols
  full : Symbols

/-- An 8-bit value, signed or unsigned; any other is an error (log 23). -/
def byteOf (n : Int) : Option Byte := if -128 ≤ n ∧ n ≤ 255 then some (BitVec.ofInt 8 n) else none

/-- A 16-bit value, signed or unsigned (90_conflicts.md C2); any other is an error (log 23). -/
def wordOf (n : Int) : Option Word := if -32768 ≤ n ∧ n ≤ 65535 then some (BitVec.ofInt 16 n) else none

/-- The value of an operand once all labels are known. -/
def Env.value (e : Env) (v : Value) : Option Int := v.eval e.full

/-- The value is known here and lies in a range. -/
def Env.fits (e : Env) (v : Value) (lo hi : Int) : Bool :=
  match v.eval e.size with
  | some n => decide (lo ≤ n) && decide (n ≤ hi)
  | none => false

/-- Direct when the value is $0000 to $00FF, else extended (R394; 92_eei_decisions.md D23). -/
def Env.directFits (e : Env) (v : Value) : Bool := e.fits v 0 255

/-- A 16-bit address; DESIGN CHOICE (log 23): -1 is $FFFF, and a value of more than 16 bits is an error. -/
def Env.address (e : Env) (v : Value) : Option Word := (e.value v).bind wordOf

/-- The field nnnn of a step of 1 to 8 (30_encoding.md R105). -/
def autoField (n : Int) (plus : Bool) : Option (BitVec 4) :=
  if 1 ≤ n ∧ n ≤ 8 then some (if plus then BitVec.ofInt 4 (n - 1) else BitVec.ofInt 4 (16 - n)) else none

/-- The indexed form of an operand, the shortest that holds the offset (R394). DESIGN CHOICE (log 23): an offset of
32768 to 65535 is not its negative and takes the 16-bit form. -/
def Env.indexed (e : Env) : Operand → Option IdxForm
  | .off v r => do
    let n ← e.value v
    if e.fits v (-16) 15 then pure (.off5 r (BitVec.ofInt 5 n))
    else if e.fits v (-256) 255 then pure (.off9 r (BitVec.ofInt 9 n))
    else pure (.off16 r (← wordOf n))
  | .auto v plus m r => do pure (.auto r m (← autoField (← e.value v) plus))
  | .acc o r => some (.acc r o)
  | .ind v r => do pure (.ind16 r (← (e.value v).bind wordOf))
  | .indD r => some (.indD r)
  | .imm _ | .addr _ => none

/-- An 8-bit source. -/
def Env.src8 (e : Env) : Operand → Option Src8
  | .imm v => ((e.value v).bind byteOf).map .imm
  | .addr v =>
    if e.directFits v then (e.address v).map fun a => .dir (loByte a) else (e.address v).map .ext
  | o => (e.indexed o).map .idx

/-- A 16-bit source. -/
def Env.src16 (e : Env) : Operand → Option Src16
  | .imm v => ((e.value v).bind wordOf).map .imm
  | .addr v =>
    if e.directFits v then (e.address v).map fun a => .dir (loByte a) else (e.address v).map .ext
  | o => (e.indexed o).map .idx

/-- A memory operand with a direct form. -/
def Env.mem (e : Env) : Operand → Option MemOp
  | .imm _ => none
  | .addr v =>
    if e.directFits v then (e.address v).map fun a => .dir (loByte a) else (e.address v).map .ext
  | o => (e.indexed o).map .idx

/-- A memory operand without a direct form. -/
def Env.rmw (e : Env) : Operand → Option RmwOp
  | .imm _ => none
  | .addr v => (e.address v).map .ext
  | o => (e.indexed o).map .idx

/-- The source of MOVB. -/
def Env.movSrc8 (e : Env) : Operand → Option MovSrc8
  | .imm v => ((e.value v).bind byteOf).map .imm
  | .addr v => (e.address v).map .ext
  | o => (e.indexed o).map .idx

/-- The source of MOVW. -/
def Env.movSrc16 (e : Env) : Operand → Option MovSrc16
  | .imm v => ((e.value v).bind wordOf).map .imm
  | .addr v => (e.address v).map .ext
  | o => (e.indexed o).map .idx

/-- The destination of a move. -/
def Env.movDst (e : Env) : Operand → Option MovDst
  | .imm _ => none
  | .addr v => (e.address v).map .ext
  | o => (e.indexed o).map .idx

/-- A mask or an 8-bit immediate without `#`, as the source writes masks. -/
def Env.maskByte (e : Env) : Operand → Option Byte
  | .addr v | .imm v => (e.value v).bind byteOf
  | _ => none

/-- `target - next` modulo 2^16, for the branch whose bytes, with a zero offset, are those of `i` (R361;
20_memory.md R51). DESIGN CHOICE (log 23): a target of more than 16 bits is an error. -/
def Env.offset (e : Env) (at_ : Word) (i : Instr) : Operand → Option Word
  | .addr v => (e.address v).map fun t => t - (at_ + BitVec.ofNat 16 i.length)
  | _ => none

/-- An offset that fits in 8 signed bits; an error otherwise (R361, R395). -/
def shortRel (n : Word) : Option Byte := if -128 ≤ n.toInt ∧ n.toInt ≤ 127 then some (loByte n) else none

/-- The instruction of a line at an address. -/
def assemble1 (e : Env) (at_ : Word) : Shape → List Operand → Option Instr
  | .inh i, [] => some i
  | .imm8 mk, [.imm v] => ((e.value v).bind byteOf).map mk
  | .src8 mk, [o] => (e.src8 o).map mk
  | .src16 mk, [o] => (e.src16 o).map mk
  | .mem mk, [o] => (e.mem o).map mk
  | .rmw mk, [o] => (e.rmw o).map mk
  | .mask mk, [o, m] => do pure (mk (← e.mem o) (← e.maskByte m))
  | .maskRel mk, [o, m, t] => do
    let op ← e.mem o
    let mm ← e.maskByte m
    pure (mk op mm (← (e.offset at_ (mk op mm 0#8) t).bind shortRel))
  | .rel8 mk, [t] => ((e.offset at_ (mk 0#8) t).bind shortRel).map mk
  | .rel16 mk, [t] => (e.offset at_ (mk 0#16) t).map mk
  | .movb, [s, d] => do pure (.movb (← e.movSrc8 s) (← e.movDst d))
  | .movw, [s, d] => do pure (.movw (← e.movSrc16 s) (← e.movDst d))
  | _, _ => none

/-! ## Lines -/

/-- The directives (R397 to R404). -/
inductive Directive where
  | equ (v : Value)
  | org (v : Value)
  | finish
  | rmb (v : Value)
  | fcb (vs : List Value)
  | fdb (vs : List Value)
  | fcc (text : List Byte)
deriving DecidableEq, Repr

/-- What a line holds beside its label. -/
inductive Statement where
  | nothing
  | directive (d : Directive)
  | instruction (shape : Shape) (ops : List Operand)

/-- A line: its text, the fields that the text is cut into (R390), and its statement. -/
structure Line where
  text : List Char
  label : Option (List Char)
  word : List Char
  operand : List Char
  comment : List Char
  body : Statement

/-- The ASCII code of a character (R404). DESIGN CHOICE (log 23): any character up to $7F has one, not only a letter
or a digit, and a character above $7F, which has none, is an error. -/
def ascii (c : Char) : Option Byte := if c.toNat < 128 then some (BitVec.ofNat 8 c.toNat) else none

/-- The characters of an operand text that stands in quotation marks. DESIGN CHOICE (log 23): text before the first
or after the second mark, a mark missing, and no character between them are errors. -/
def quotedText : List Char → Option (List Char)
  | '"' :: t =>
    if t.getLast? = some '"' && !t.dropLast.isEmpty && !t.dropLast.contains '"' then some t.dropLast else none
  | _ => none

/-- The ASCII codes of all characters (R404). -/
def asciiAll : List Char → Option (List Byte)
  | [] => some []
  | c :: cs => do pure ((← ascii c) :: (← asciiAll cs))

/-- The values of one piece or more (R402, R403). DESIGN CHOICE (log 23): no piece at all is an error. -/
def parseValues : List (List Char) → Option (List Value)
  | [] => none
  | [p] => (parseValue p).map ([·])
  | p :: ps => do pure ((← parseValue p) :: (← parseValues ps))

/-- The one value of an operand text. -/
def parseOne (cs : List Char) : Option Value :=
  match pieces cs with
  | [p] => parseValue p
  | _ => none

/-- The words that name a directive. -/
def directiveNames : List String := ["EQU", "ORG", "END", "RMB", "FCB", "FDB", "FCC"]

/-- The word names a directive or an instruction. -/
def isOperation (name : List Char) : Bool :=
  directiveNames.any (·.toList == name) || (shapeOf name).isSome

/-- A directive with its operand text. DESIGN CHOICE (log 23; 91_not_in_source.md N29): an operand text outside the
forms of R398 to R404 is an error: none or several where one value is wanted, none for FCB and FDB, any for END. -/
def parseDirective (name rest : List Char) : Option Directive :=
  if name = "EQU".toList then (parseOne rest).map .equ
  else if name = "ORG".toList then (parseOne rest).map .org
  else if name = "END".toList then (if rest.isEmpty then some .finish else none)
  else if name = "RMB".toList then (parseOne rest).map .rmb
  else if name = "FCB".toList then (parseValues (pieces rest)).map .fcb
  else if name = "FDB".toList then (parseValues (pieces rest)).map .fdb
  else if name = "FCC".toList then ((quotedText rest).bind asciiAll).map .fcc
  else none

/-- The statement that an operation word and its operand text make. -/
def parseStatement (name rest : List Char) : Option Statement :=
  if name.isEmpty then some .nothing
  else
    match shapeOf name with
    | some shape => (parseOperands (pieces rest)).map (.instruction shape)
    | none => (parseDirective name rest).map .directive

/-- Read a line. A word at the margin is a label, and so is a first word that names no operation
(R390; 90_conflicts.md C11; log 22). After END only directives act: any other line is ignored, whatever it holds
(R400; log 19). -/
def parseLine (ended : Bool) (cs : List Char) : Option Line :=
  let t := cutComment false cs
  let first := word1 (dropBlanks t.1)
  let margin := match cs with
    | c :: _ => !isBlank c
    | [] => false
  let labelled := !first.1.isEmpty && (margin || !isOperation first.1)
  let op := if labelled then word1 (dropBlanks first.2) else first
  let mk (body : Statement) : Line :=
    { text := cs
      label := if labelled then some first.1 else none
      word := op.1
      operand := trim op.2
      comment := t.2
      body := body }
  if ended && !directiveNames.any (·.toList == op.1) then some { mk .nothing with label := none }
  else (parseStatement op.1 (trim op.2)).map mk

/-- The line sets the end of the program (R400). -/
def Line.isEnd (l : Line) : Bool :=
  match l.body with
  | .directive .finish => true
  | .directive _ | .instruction _ _ | .nothing => false

/-- Read all lines. -/
def parseLines (ended : Bool) : List (List Char) → Option (List Line)
  | [] => some []
  | l :: ls => do
    let line ← parseLine ended l
    pure (line :: (← parseLines (ended || line.isEnd) ls))

/-! ## Addresses and labels (R391) -/

/-- The labels of a value, or none. -/
def Value.names : Value → List (List Char)
  | .num _ => []
  | .label n => [n]

/-- The labels of an operand. -/
def Operand.names : Operand → List (List Char)
  | .imm v | .addr v | .off v _ | .auto v _ _ _ | .ind v _ => v.names
  | .acc _ _ | .indD _ => []

/-- How many bytes an instruction takes, with the labels known so far. Only the form depends on a label's value, so
where a value itself is needed a label counts as 1. -/
def instrSize (known : Symbols) (shape : Shape) (ops : List Operand) : Option Nat :=
  let e : Env := { size := known, full := (ops.flatMap Operand.names).map fun n => (n, 1) }
  match shape, ops with
  | .rel8 mk, _ => some (mk 0#8).length
  | .rel16 mk, _ => some (mk 0#16).length
  | .maskRel mk, o :: _ => (e.mem o).map fun op => (mk op 0#8 0#8).length
  | shape, ops => (assemble1 e 0#16 shape ops).map Instr.length

/-- A count of reserved bytes (R401); DESIGN CHOICE (log 23): less than 0 or more than 65,536 is an error. -/
def countOf (n : Int) : Option Nat := if 0 ≤ n ∧ n ≤ 65536 then some n.toNat else none

/-- The bytes that a statement takes; none while that is not known, or if it is wrong. -/
def Statement.size (known : Symbols) : Statement → Option Nat
  | .nothing => some 0
  | .instruction shape ops => instrSize known shape ops
  | .directive (.rmb v) => (v.eval known).bind countOf
  | .directive (.fcb vs) => some vs.length
  | .directive (.fdb vs) => some (2 * vs.length)
  | .directive (.fcc t) => some t.length
  | .directive (.equ _) | .directive (.org _) | .directive .finish => some 0

/-- A line at the location counter; none while that is unset or not known. -/
structure Placed where
  addr : Option Word
  line : Line

/-- Where each line stands, with the labels known so far. The counter is unset until the first ORG, which sets it (R399)
for itself and the lines after it; it counts modulo 2^16 (20_memory.md R51). -/
def placeLines (known : Symbols) : Option Word → List Line → List Placed
  | _, [] => []
  | counter, l :: ls =>
    let here := match l.body with
      | .directive (.org v) => (v.eval known).bind wordOf
      | .directive _ | .instruction _ _ | .nothing => counter
    let after := do pure ((← here) + BitVec.ofNat 16 (← l.body.size known))
    { addr := here, line := l } :: placeLines known after ls

/-- The label that a line defines: the value of an EQU (R398), else the address of the line (R391, R399). -/
def Placed.symbol (known : Symbols) (p : Placed) : Option (List Char × Int) := do
  let name ← p.line.label
  match p.line.body with
  | .directive (.equ v) => pure (name, ← v.eval known)
  | .directive _ | .instruction _ _ | .nothing => pure (name, ((← p.addr).toNat : Int))

/-- The labels that the lines define. -/
def symbolsOf (known : Symbols) (ps : List Placed) : Symbols := ps.filterMap (Placed.symbol known)

/-- Place the lines again and again, each time with the labels that the last pass gave, until they come out as they
went in. A label may be used before the line that defines it, in any operand (R391). No labels if the passes run
out (log 18). -/
def settle (lines : List Line) : Nat → Symbols → Option Symbols
  | 0, _ => none
  | n + 1, known =>
    let next := symbolsOf known (placeLines known none lines)
    if next = known then some known else settle lines n next

/-- No name stands twice. -/
def noRepeat : List (List Char) → Bool
  | [] => true
  | n :: ns => !ns.contains n && noRepeat ns

/-- The labels of a program. DESIGN CHOICE (log 23): a label defined twice is an error. -/
def labelsOf (lines : List Line) : Option Symbols :=
  if noRepeat (lines.filterMap (·.label)) then settle lines (3 * lines.length + 4) [] else none

/-! ## Bytes -/

/-- What a line puts in memory: its bytes, and whether they are an instruction. -/
structure Emitted where
  addr : Word
  bytes : List Byte
  code : Bool
deriving DecidableEq, Repr

/-- One byte for each value (R402). -/
def fcbBytes (known : Symbols) : List Value → Option (List Byte)
  | [] => some []
  | v :: vs => do pure ((← (v.eval known).bind byteOf) :: (← fcbBytes known vs))

/-- Two bytes for each value, high byte first (R403). -/
def fdbBytes (known : Symbols) : List Value → Option (List Byte)
  | [] => some []
  | v :: vs => do
    let w ← (v.eval known).bind wordOf
    pure (hiByte w :: loByte w :: (← fdbBytes known vs))

/-- The instruction of a line, if it has one. An operand form that the spec excludes is an error. -/
def Placed.instr (known : Symbols) (p : Placed) : Option Instr :=
  match p.line.body with
  | .instruction shape ops => do
    let i ← assemble1 { size := known, full := known } (← p.addr) shape ops
    if i.wellFormed then pure i else none
  | .directive _ | .nothing => none

/-- What a line puts in memory, if anything; none if the line is wrong: an operand without a value, a value that does
not fit, bytes or a label before the first ORG (R399; 70_reset_and_hazards.md R454). DESIGN CHOICE (log 23): an EQU, a
comment, an empty line and an END need no ORG before them, and a text that puts no byte needs none at all. -/
def Placed.emit (known : Symbols) (p : Placed) : Option (List Emitted) :=
  let data (bytes : Option (List Byte)) : Option (List Emitted) := do
    pure [{ addr := ← p.addr, bytes := ← bytes, code := false }]
  match p.line.body with
  | .instruction _ _ => do pure [{ addr := ← p.addr, bytes := encode (← p.instr known), code := true }]
  | .directive (.fcb vs) => data (fcbBytes known vs)
  | .directive (.fdb vs) => data (fdbBytes known vs)
  | .directive (.fcc t) => data (some t)
  | .directive (.equ v) => do
    let _ ← p.line.label
    let _ ← v.eval known
    pure []
  | .directive (.rmb _) => do
    let _ ← p.addr
    let _ ← p.line.body.size known
    pure []
  | .directive (.org _) => p.addr.map fun _ => []
  | .directive .finish | .nothing => if p.line.label.isSome then p.addr.map fun _ => [] else some []

/-- What all lines put in memory. -/
def emitAll (known : Symbols) : List Placed → Option (List (List Emitted))
  | [] => some []
  | p :: ps => do pure ((← p.emit known) :: (← emitAll known ps))

/-- An assembled program: its labels, its lines in their places, and what each of them puts in memory. -/
structure Program where
  labels : Symbols
  lines : List Placed
  emitted : List (List Emitted)

/-- Assemble a program text (R406). -/
def assembleText (text : String) : Option Program := do
  let lines ← parseLines false (splitLines text.toList)
  let labels ← labelsOf lines
  let placed := placeLines labels none lines
  pure { labels := labels, lines := placed, emitted := ← emitAll labels placed }

/-- The bytes of a program text, in the order of its lines. -/
def assemble (text : String) : Option (List Emitted) := (assembleText text).map (·.emitted.flatten)

/-! ## The load records and the code (R409, R412) -/

/-- Runs of bytes at consecutive addresses. -/
def runs : List Emitted → List (Word × List Byte)
  | [] => []
  | e :: es =>
    if e.bytes.isEmpty then runs es
    else
      match runs es with
      | (b, bs) :: rest =>
        if e.addr + BitVec.ofNat 16 e.bytes.length = b then (e.addr, e.bytes ++ bs) :: rest
        else (e.addr, e.bytes) :: (b, bs) :: rest
      | [] => [(e.addr, e.bytes)]

/-- The load records of a program text, in the order of the text (log 20). -/
def assembleRecords (text : String) : Option (List Record) := (assemble text).map fun es => recordsOf (runs es)

/-- The code ranges of a program text: the bytes inside its instructions (R412), across $FFFF too. -/
def codeRanges : List Emitted → List AddrRange
  | [] => []
  | e :: es =>
    if e.code && !e.bytes.isEmpty then
      ⟨e.addr, e.addr + BitVec.ofNat 16 (e.bytes.length - 1)⟩ :: codeRanges es
    else codeRanges es

end Sys2Proof.Machine
end

