-- ==== Sys2Proof/Machine/Listing.lean ====
section
/-! DEFINITION. The .LST file of a program text: "program addresses & op-codes" beside the source lines
(48_assembler_directives.md R406 to R408), in the layouts of the source's two listings. What those two leave open is
log 24. -/

namespace Sys2Proof

/-! ## How bytes are printed (R407, R408)

The bytes of an instruction stand apart, except a 16-bit operand, which is one group. -/

/-- Bytes cut into groups of the given sizes; what is left over stands apart. -/
def cutGroups : List Nat → List Byte → List (List Byte)
  | [], bs => bs.map ([·])
  | n :: ns, bs => bs.take n :: cutGroups ns (bs.drop n)

/-- The groups at the start of an instruction whose 16-bit operand is its address, if the address is extended. -/
def MemOp.groups : MemOp → List Nat
  | .ext _ => [1, 2]
  | .dir _ | .idx _ => []

/-- The groups at the start of a read-modify-write instruction. -/
def RmwOp.groups : RmwOp → List Nat
  | .ext _ => [1, 2]
  | .idx _ => []

/-- The groups at the start of an instruction with an 8-bit source. -/
def Src8.groups : Src8 → List Nat
  | .ext _ => [1, 2]
  | .imm _ | .dir _ | .idx _ => []

/-- The groups at the start of an instruction with a 16-bit source. -/
def Src16.groups : Src16 → List Nat
  | .imm _ | .ext _ => [1, 2]
  | .dir _ | .idx _ => []

/-- The groups of a MOVB after its two opcode bytes (30_encoding.md R82). -/
def movbGroups : MovSrc8 → MovDst → List Nat
  | .ext _, .ext _ => [2, 2]
  | .ext _, .idx _ | .imm _, .ext _ | .idx _, .ext _ => [1, 2]
  | .imm _, .idx _ | .idx _, .idx _ => []

/-- The groups of a MOVW after its two opcode bytes (30_encoding.md R82). -/
def movwGroups : MovSrc16 → MovDst → List Nat
  | .imm _, .ext _ | .ext _, .ext _ => [2, 2]
  | .imm _, .idx _ | .ext _, .idx _ | .idx _, .ext _ => [1, 2]
  | .idx _, .idx _ => []

/-- The groups of an instruction; what they do not reach stands apart. DESIGN CHOICE (log 24): the extension bytes of an
indexed operand stand apart, as in the source's examples of indexed modes; a 16-bit branch offset is a 16-bit operand. -/
def Instr.groups : Instr → List Nat
  | .ldaa o | .ldab o | .adda o | .addb o | .adca o | .adcb o | .suba o | .subb o | .sbca o | .sbcb o | .anda o
  | .andb o | .eora o | .eorb o | .oraa o | .orab o | .bita o | .bitb o | .cmpa o | .cmpb o => o.groups
  | .ldd o | .ldx o | .ldy o | .lds o | .addd o | .subd o | .cpd o | .cps o | .cpx o | .cpy o => o.groups
  | .staa o | .stab o | .std o | .stx o | .sty o | .sts o | .jsr o => o.groups
  | .bset o _ | .bclr o _ | .brset o _ _ => o.groups
  | .lsl o | .lsr o | .asl o | .asr o | .rol o | .ror o | .dec o | .inc o | .com o | .neg o | .tst o => o.groups
  | .lbrn _ | .lbra _ | .lbcc _ | .lbcs _ | .lbeq _ | .lbne _ | .lbmi _ | .lbpl _ | .lbvs _ | .lbvc _ | .lbhs _
  | .lbhi _ | .lbls _ | .lblo _ | .lbge _ | .lbgt _ | .lble _ | .lblt _ => [1, 1, 2]
  | .movb src dst => [1, 1] ++ movbGroups src dst
  | .movw src dst => [1, 1] ++ movwGroups src dst
  | .andcc _ | .orcc _ | .brn _ | .bra _ | .bcc _ | .bcs _ | .beq _ | .bne _ | .bmi _ | .bpl _ | .bvs _ | .bvc _ | .bhs _
  | .bhi _ | .bls _ | .blo _ | .bge _ | .bgt _ | .ble _ | .blt _ => []
  | .tab | .tba | .tap | .tpa | .lsla | .lslb | .lsld | .lsra | .lsrb | .lsrd | .asla | .aslb | .asld | .asra | .asrb
  | .rola | .rolb | .rora | .rorb | .aba | .abx | .aby | .sba | .deca | .decb | .des | .dex | .dey | .inca | .incb
  | .ins | .inx | .iny | .clc | .cli | .clv | .coma | .comb | .nega | .negb | .cba | .tsta | .tstb | .rts | .swi => []

end Sys2Proof

namespace Sys2Proof.Machine

open Sys2Proof

/-- The bytes that a line generates, in groups. DESIGN CHOICE (log 24): an FDB operand is one group. -/
def Placed.groups (known : Symbols) (p : Placed) (bytes : List Byte) : List (List Byte) :=
  match p.line.body with
  | .instruction _ _ =>
    match p.instr known with
    | some i => cutGroups i.groups bytes
    | none => []
  | .directive (.fdb vs) => cutGroups (vs.map fun _ => 2) bytes
  | .directive _ | .nothing => cutGroups [] bytes

/-! ## Lines of a listing -/

/-- What a listing prints in the place of an address. -/
inductive ListMark where
  | addr (a : Word)    -- of the first byte that the line generates
  | value (n : Int)    -- of an ORG or an EQU
  | nothing
deriving DecidableEq, Repr

/-- A line of a listing: its number, its address or value, the bytes it generates, its source line. -/
structure ListLine where
  number : Nat
  mark : ListMark
  groups : List (List Byte)
  line : Line

/-- "Lines that generate no bytes show `=` and an eight-digit value (ORG, EQU) or nothing" (R407); RMB shows nothing
(log 24). -/
def Placed.mark (known : Symbols) (p : Placed) (bytes : List Byte) : ListMark :=
  match p.line.body with
  | .directive (.equ v) | .directive (.org v) =>
    match v.eval known with
    | some n => .value n
    | none => .nothing
  | .directive _ | .instruction _ _ | .nothing =>
    match p.addr with
    | some a => if bytes.isEmpty then .nothing else .addr a
    | none => .nothing

/-- The listing of placed lines and what they put in memory, numbered from `n`. -/
def listLines (known : Symbols) : Nat → List Placed → List (List Emitted) → List ListLine
  | n, p :: ps, es :: rest =>
    let bytes := es.flatMap (·.bytes)
    { number := n, mark := p.mark known bytes, groups := p.groups known bytes, line := p.line } ::
      listLines known (n + 1) ps rest
  | _, [], _ | _, _, [] => []

/-- The listing of a program text (R406). -/
def listing (text : String) : Option (List ListLine) :=
  (assembleText text).map fun p => listLines p.labels 1 p.lines p.emitted

/-! ## The layout of the first listing (R407) -/

/-- A number in `k` hexadecimal digits. -/
def hexDigits : Nat → Nat → List Char
  | 0, _ => []
  | k + 1, n => hexDigits k (n / 16) ++ [hexChar (n % 16)]

/-- Groups of bytes in hexadecimal, one blank between them. -/
def groupsText : List (List Byte) → List Char
  | [] => []
  | [g] => g.flatMap fun b => hexDigits 2 b.toNat
  | g :: gs => (g.flatMap fun b => hexDigits 2 b.toNat) ++ ' ' :: groupsText gs

/-- Four digits of an address, or `=` and eight digits of a value. -/
def ListMark.text : ListMark → List Char
  | .addr a => hexDigits 4 a.toNat
  | .value n => '=' :: hexDigits 8 (n % 4294967296).toNat
  | .nothing => []

/-- The columns of the first listing. -/
def listingHeader : List Char := "Line  Addr  Op Code  Label  Mnemonic and Notes".toList

/-- A line of the first listing: number and colon, address or value, bytes, source line. The blanks between the columns
are the model's (log 24). -/
def ListLine.text (l : ListLine) : List Char :=
  Nat.toDigits 10 l.number ++ ':' :: ' ' :: l.mark.text ++ ' ' :: groupsText l.groups ++ ' ' :: l.line.text

/-! ## The layout of the second listing (R390, R408) -/

/-- A row of the second listing: label, mnemonic or directive, operand, address, bytes. -/
structure ListRow where
  label : List Char
  word : List Char
  operand : List Char
  address : List Char
  opcode : List Char
deriving DecidableEq, Repr

/-- The address column of the second listing: an ORG shows the address it sets, without bytes; an EQU, of which that
listing has none, its value (log 24). -/
def ListLine.address (l : ListLine) : List Char :=
  match l.line.body, l.mark with
  | .directive (.org _), .value n => hexDigits 4 (n % 65536).toNat
  | _, m => m.text

/-- A line as a row of the second listing. DESIGN CHOICE (log 24): a line that is only a comment
has the comment in the first column. -/
def ListLine.row (l : ListLine) : ListRow where
  label :=
    match l.line.label with
    | some n => n
    | none => if l.line.word.isEmpty then l.line.comment else []
  word := l.line.word
  operand := l.line.operand
  address := l.address
  opcode := groupsText l.groups

end Sys2Proof.Machine
end

