-- ==== Sys2Proof/Machine/Timing.lean ====
section
/-! DEFINITION. The eleven cycle counts that the source prints (70_reset_and_hazards.md R460), as data. The machine
has no time: no definition of the model uses them. -/

namespace Sys2Proof.Machine

open Sys2Proof

/-- The instructions of the table "Indexed Addressing Mode Operations & Examples", each with its cycles. -/
def printedCycles : List (Instr × Nat) :=
  [(.ldaa (.idx (.off5 .x 15#5)), 3), (.ldaa (.idx (.off9 .y 255#9)), 3), (.ldaa (.idx (.off16 .pc 4096#16)), 4),
   (.ldaa (.idx (.acc .sp .b)), 3), (.ldaa (.idx (.acc .x .d)), 3), (.ldaa (.idx (.auto .sp .pre 7#4)), 3),
   (.ldaa (.idx (.auto .y .pre 8#4)), 3), (.ldaa (.idx (.auto .x .post 0#4)), 3),
   (.ldaa (.idx (.auto .x .post 12#4)), 3), (.ldaa (.idx (.ind16 .x 4096#16)), 6), (.ldx (.idx (.indD .pc)), 6)]

/-- The cycles of an instruction, where the source prints them. -/
def cyclesOf (i : Instr) : Option Nat := (printedCycles.find? (·.1 == i)).map (·.2)

end Sys2Proof.Machine
end

