-- ==== Sys2Proof/Tests/Slice0.lean ====
section
/-! SUPPORT. The model's own tests. The expected results are the spec's: the words of opcode_table.json, the source's
printed examples and the vectors of 95_test_vectors.md (a theorem's name ends in the vector's name), or hand
calculation from the rule a comment names. At the end, a witness for the hypotheses of each statement. -/

namespace Sys2Proof.Tests

open Sys2Proof Sys2Proof.Machine

/-! ## Helpers -/

/-- Mixed flags: S, H, N, V set. -/
def mixed : Ccr := ⟨true, false, true, false, true, false, true, false⟩

/-- A state whose registers all differ, pc at $4000. -/
def s0 : State :=
  { State.reset with a := 0x5A#8, b := 0xC3#8, x := 0x7E57#16, y := 0x6A6A#16, sp := 0x2FF0#16, ccr := mixed }

/-- Store bytes at the listed addresses. -/
def puts (m : Memory) (data : List (Word × Byte)) : Memory := data.foldl (fun n p => Memory.set n p.1 p.2) m

/-- Only the listed bytes in memory, as loaded: data, and an instruction at the pc, which alone is code. -/
def setUp (bytes : List Byte) (data : List (Word × Byte)) (s : State) : State :=
  let image := Memory.setAll (puts [] data) s.pc bytes
  { s with
    mem := image
    params := { s.params with code := [⟨s.pc, s.pc + BitVec.ofNat 16 bytes.length - 1#16⟩], image := image } }

/-- The answer is this next state. -/
def answers (o : Out) (t : State) : Bool :=
  match o with
  | .next u => u == t
  | .fault _ => false
  | .refused _ => false

/-- The answer is this fault. -/
def faults (o : Out) (e : Fault) : Bool :=
  match o with
  | .fault f => f == e
  | .next _ => false
  | .refused _ => false

/-- The answer is the refusal of these bytes. -/
def refuses (o : Out) (bytes : List Byte) : Bool :=
  match o with
  | .refused r => r == .noInstruction bytes
  | .next _ => false
  | .fault _ => false

/-- One step changes exactly what `f` changes. -/
def goesTo (s : State) (f : State → State) : Bool := answers (Machine.step s) (f s)

/-- The bytes decode to the instruction, and nothing is left over. -/
def decodesAll (words : List (List Byte × Instr)) : Bool := words.all fun p => decode p.1 == .instr p.2 []

/-- The address of an indexed operand of an instruction at $4000 with `next` = $4004. -/
def eaIs (f : IdxForm) (s : State) (ea : Word) (t : State) : Bool :=
  match IdxForm.ea f 0x4004#16 s with
  | .ok p => p == (ea, t)
  | .error _ => false

/-! ## WellFormed: one ill-formed term for each check, and its well-formed neighbour -/

/-- An auto form on the register that is loaded, stored, compared or pushed with. -/
theorem wellFormed_ldx : Instr.wellFormed (.ldx (.idx (.auto .x .post 1#4))) = false ∧
    Instr.wellFormed (.ldx (.idx (.auto .y .post 1#4))) = true := by decide
theorem wellFormed_ldy : Instr.wellFormed (.ldy (.idx (.auto .y .pre 0#4))) = false := by decide
theorem wellFormed_lds : Instr.wellFormed (.lds (.idx (.auto .sp .pre 0#4))) = false := by decide
theorem wellFormed_stx : Instr.wellFormed (.stx (.idx (.auto .x .pre 14#4))) = false := by decide
theorem wellFormed_sty : Instr.wellFormed (.sty (.idx (.auto .y .pre 14#4))) = false := by decide
theorem wellFormed_sts : Instr.wellFormed (.sts (.idx (.auto .sp .pre 14#4))) = false := by decide
theorem wellFormed_cpx : Instr.wellFormed (.cpx (.idx (.auto .x .post 1#4))) = false := by decide
theorem wellFormed_cpy : Instr.wellFormed (.cpy (.idx (.auto .y .post 1#4))) = false := by decide
theorem wellFormed_cps : Instr.wellFormed (.cps (.idx (.auto .sp .pre 1#4))) = false := by decide
theorem wellFormed_jsr : Instr.wellFormed (.jsr (.idx (.auto .sp .pre 14#4))) = false ∧
    Instr.wellFormed (.jsr (.idx (.auto .x .pre 14#4))) = true := by decide

/-- A bit instruction with an indirect form, and with a PC base. -/
theorem wellFormed_bset : Instr.wellFormed (.bset (.idx (.indD .x)) 1#8) = false ∧
    Instr.wellFormed (.bset (.idx (.off5 .pc 0#5)) 1#8) = false ∧
    Instr.wellFormed (.bset (.idx (.off16 .y 0x1000#16)) 1#8) = true := by decide
theorem wellFormed_bclr : Instr.wellFormed (.bclr (.idx (.ind16 .x 0x1000#16)) 8#8) = false := by decide
theorem wellFormed_brset : Instr.wellFormed (.brset (.idx (.off16 .pc 0x10#16)) 1#8 0#8) = false := by decide

/-- A move with extension bytes, with an indirect form, with a PC base, and with two auto forms on one register. -/
theorem wellFormed_movb : Instr.wellFormed (.movb (.imm 0x55#8) (.idx (.off16 .x 0x1000#16))) = false ∧
    Instr.wellFormed (.movb (.idx (.indD .y)) (.ext 0#16)) = false ∧
    Instr.wellFormed (.movb (.idx (.off5 .pc 0#5)) (.idx (.off5 .x 0#5))) = false ∧
    Instr.wellFormed (.movb (.idx (.auto .x .post 0#4)) (.idx (.auto .x .post 0#4))) = false ∧
    Instr.wellFormed (.movb (.idx (.auto .x .post 0#4)) (.idx (.auto .y .post 0#4))) = true := by decide
theorem wellFormed_movw : Instr.wellFormed (.movw (.idx (.off9 .x 1#9)) (.ext 0#16)) = false ∧
    Instr.wellFormed (.movw (.ext 0#16) (.idx (.acc .pc .a))) = false ∧
    Instr.wellFormed (.movw (.idx (.auto .sp .pre 1#4)) (.idx (.auto .sp .post 1#4))) = false := by decide

/-! ## Decoding -/

/-- Loads and stores: words written from opcode_table.json, one or more for each constructor. -/
def words_loads : List (List Byte × Instr) :=
  [([0x86#8, 0x9C#8], .ldaa (.imm 0x9C#8)),
   ([0x96#8, 0x9D#8], .ldaa (.dir 0x9D#8)),
   ([0xB6#8, 0x12#8, 0x34#8], .ldaa (.ext 0x1234#16)),
   ([0xA6#8, 0x0F#8], .ldaa (.idx (.off5 .x 15#5))),
   ([0xC6#8, 0x9C#8], .ldab (.imm 0x9C#8)),
   ([0xDC#8, 0x9D#8], .ldd (.dir 0x9D#8)),
   ([0xCE#8, 0xBE#8, 0xEF#8], .ldx (.imm 0xBEEF#16)),
   ([0xDE#8, 0x9D#8], .ldx (.dir 0x9D#8)),
   ([0xFE#8, 0x12#8, 0x34#8], .ldx (.ext 0x1234#16)),
   ([0xEE#8, 0xE8#8, 0xFF#8], .ldx (.idx (.off9 .y 255#9))),
   ([0xFD#8, 0x12#8, 0x34#8], .ldy (.ext 0x1234#16)),
   ([0xEF#8, 0xFA#8, 0x10#8, 0x00#8], .lds (.idx (.off16 .pc 0x1000#16))),
   ([0x7A#8, 0x12#8, 0x34#8], .staa (.ext 0x1234#16)),
   ([0x6B#8, 0xF5#8], .stab (.idx (.acc .sp .b))),
   ([0x5C#8, 0x9D#8], .std (.dir 0x9D#8)),
   ([0x7E#8, 0x12#8, 0x34#8], .stx (.ext 0x1234#16)),
   ([0x6D#8, 0xE6#8], .sty (.idx (.acc .x .d))),
   ([0x5F#8, 0x9D#8], .sts (.dir 0x9D#8))]

theorem decode_loads : decodesAll words_loads = true := by decide +kernel

/-- Transfers and moves: words written from opcode_table.json, one or more for each constructor. -/
def words_transfers : List (List Byte × Instr) :=
  [([0x18#8, 0x0E#8], .tab),
   ([0x18#8, 0x0F#8], .tba),
   ([0xB7#8, 0x02#8], .tap),
   ([0xB7#8, 0x20#8], .tpa),
   ([0x18#8, 0x08#8, 0x3C#8, 0x9C#8], .movb (.imm 0x9C#8) (.idx (.auto .x .post 12#4))),
   ([0x18#8, 0x09#8, 0x0F#8, 0x12#8, 0x34#8], .movb (.ext 0x1234#16) (.idx (.off5 .x 15#5))),
   ([0x18#8, 0x0A#8, 0xE6#8, 0x0F#8], .movb (.idx (.acc .x .d)) (.idx (.off5 .x 15#5))),
   ([0x18#8, 0x0B#8, 0x9C#8, 0x12#8, 0x34#8], .movb (.imm 0x9C#8) (.ext 0x1234#16)),
   ([0x18#8, 0x0C#8, 0x12#8, 0x34#8, 0x56#8, 0x78#8], .movb (.ext 0x1234#16) (.ext 0x5678#16)),
   ([0x18#8, 0x0D#8, 0x0F#8, 0x12#8, 0x34#8], .movb (.idx (.off5 .x 15#5)) (.ext 0x1234#16)),
   ([0x18#8, 0x00#8, 0xE6#8, 0xBE#8, 0xEF#8], .movw (.imm 0xBEEF#16) (.idx (.acc .x .d))),
   ([0x18#8, 0x01#8, 0x68#8, 0x12#8, 0x34#8], .movw (.ext 0x1234#16) (.idx (.auto .y .pre 8#4))),
   ([0x18#8, 0x02#8, 0x3C#8, 0x68#8], .movw (.idx (.auto .x .post 12#4)) (.idx (.auto .y .pre 8#4))),
   ([0x18#8, 0x03#8, 0xBE#8, 0xEF#8, 0x12#8, 0x34#8], .movw (.imm 0xBEEF#16) (.ext 0x1234#16)),
   ([0x18#8, 0x04#8, 0x12#8, 0x34#8, 0x56#8, 0x78#8], .movw (.ext 0x1234#16) (.ext 0x5678#16)),
   ([0x18#8, 0x05#8, 0x68#8, 0x12#8, 0x34#8], .movw (.idx (.auto .y .pre 8#4)) (.ext 0x1234#16))]

theorem decode_transfers : decodesAll words_transfers = true := by decide +kernel

/-- Shifts and rotates: words written from opcode_table.json, one or more for each constructor. -/
def words_shifts : List (List Byte × Instr) :=
  [([0x78#8, 0x12#8, 0x34#8], .lsl (.ext 0x1234#16)),
   ([0x48#8], .lsla),
   ([0x58#8], .lslb),
   ([0x59#8], .lsld),
   ([0x74#8, 0x12#8, 0x34#8], .lsr (.ext 0x1234#16)),
   ([0x44#8], .lsra),
   ([0x54#8], .lsrb),
   ([0x49#8], .lsrd),
   ([0x78#8, 0x12#8, 0x34#8], .lsl (.ext 0x1234#16)),
   ([0x48#8], .lsla),
   ([0x58#8], .lslb),
   ([0x59#8], .lsld),
   ([0x77#8, 0x12#8, 0x34#8], .asr (.ext 0x1234#16)),
   ([0x47#8], .asra),
   ([0x57#8], .asrb),
   ([0x65#8, 0xA7#8], .rol (.idx (.auto .sp .pre 7#4))),
   ([0x45#8], .rola),
   ([0x55#8], .rolb),
   ([0x76#8, 0x12#8, 0x34#8], .ror (.ext 0x1234#16)),
   ([0x46#8], .rora),
   ([0x56#8], .rorb)]

theorem decode_shifts : decodesAll words_shifts = true := by decide +kernel

/-- Arithmetic: words written from opcode_table.json, one or more for each constructor. -/
def words_arithmetic : List (List Byte × Instr) :=
  [([0x18#8, 0x06#8], .aba),
   ([0x1A#8, 0xE5#8], .abx),
   ([0x19#8, 0xED#8], .aby),
   ([0xBB#8, 0x12#8, 0x34#8], .adda (.ext 0x1234#16)),
   ([0xEB#8, 0x68#8], .addb (.idx (.auto .y .pre 8#4))),
   ([0xC3#8, 0xBE#8, 0xEF#8], .addd (.imm 0xBEEF#16)),
   ([0x99#8, 0x9D#8], .adca (.dir 0x9D#8)),
   ([0xF9#8, 0x12#8, 0x34#8], .adcb (.ext 0x1234#16)),
   ([0x18#8, 0x16#8], .sba),
   ([0x80#8, 0x9C#8], .suba (.imm 0x9C#8)),
   ([0xD0#8, 0x9D#8], .subb (.dir 0x9D#8)),
   ([0xB3#8, 0x12#8, 0x34#8], .subd (.ext 0x1234#16)),
   ([0xA2#8, 0x30#8], .sbca (.idx (.auto .x .post 0#4))),
   ([0xC2#8, 0x9C#8], .sbcb (.imm 0x9C#8)),
   ([0x63#8, 0x3C#8], .dec (.idx (.auto .x .post 12#4))),
   ([0x43#8], .deca),
   ([0x53#8], .decb),
   ([0x1B#8, 0x9F#8], .des),
   ([0x09#8], .dex),
   ([0x03#8], .dey),
   ([0x62#8, 0xE3#8, 0x10#8, 0x00#8], .inc (.idx (.ind16 .x 0x1000#16))),
   ([0x42#8], .inca),
   ([0x52#8], .incb),
   ([0x1B#8, 0x81#8], .ins),
   ([0x08#8], .inx),
   ([0x02#8], .iny)]

theorem decode_arithmetic : decodesAll words_arithmetic = true := by decide +kernel

/-- Logic and bits: words written from opcode_table.json, one or more for each constructor. -/
def words_logic : List (List Byte × Instr) :=
  [([0x94#8, 0x9D#8], .anda (.dir 0x9D#8)),
   ([0xF4#8, 0x12#8, 0x34#8], .andb (.ext 0x1234#16)),
   ([0x10#8, 0x9C#8], .andcc 0x9C#8),
   ([0x88#8, 0x9C#8], .eora (.imm 0x9C#8)),
   ([0xD8#8, 0x9D#8], .eorb (.dir 0x9D#8)),
   ([0xBA#8, 0x12#8, 0x34#8], .oraa (.ext 0x1234#16)),
   ([0xEA#8, 0xFF#8], .orab (.idx (.indD .pc))),
   ([0x14#8, 0x9C#8], .orcc 0x9C#8),
   ([0x10#8, 0xFE#8], .clc),
   ([0x10#8, 0xEF#8], .cli),
   ([0x10#8, 0xFD#8], .clv),
   ([0x71#8, 0x12#8, 0x34#8], .com (.ext 0x1234#16)),
   ([0x41#8], .coma),
   ([0x51#8], .comb),
   ([0x60#8, 0x5F#8], .neg (.idx (.off5 .y 31#5))),
   ([0x40#8], .nega),
   ([0x50#8], .negb),
   ([0x4D#8, 0x9D#8, 0x3C#8], .bclr (.dir 0x9D#8) 0x3C#8),
   ([0x1D#8, 0x12#8, 0x34#8, 0x3C#8], .bclr (.ext 0x1234#16) 0x3C#8),
   ([0x0D#8, 0xE4#8, 0x3C#8], .bclr (.idx (.acc .x .a)) 0x3C#8),
   ([0xB5#8, 0x12#8, 0x34#8], .bita (.ext 0x1234#16)),
   ([0xE5#8, 0xF1#8, 0x00#8], .bitb (.idx (.off9 .sp 256#9))),
   ([0x4C#8, 0x9D#8, 0x3C#8], .bset (.dir 0x9D#8) 0x3C#8),
   ([0x1C#8, 0x12#8, 0x34#8, 0x3C#8], .bset (.ext 0x1234#16) 0x3C#8),
   ([0x0C#8, 0xE8#8, 0xFF#8, 0x3C#8], .bset (.idx (.off9 .y 255#9)) 0x3C#8)]

theorem decode_logic : decodesAll words_logic = true := by decide +kernel

/-- Compare and test: words written from opcode_table.json, one or more for each constructor. -/
def words_tests : List (List Byte × Instr) :=
  [([0x18#8, 0x17#8], .cba),
   ([0x91#8, 0x9D#8], .cmpa (.dir 0x9D#8)),
   ([0xF1#8, 0x12#8, 0x34#8], .cmpb (.ext 0x1234#16)),
   ([0xAC#8, 0x0F#8], .cpd (.idx (.off5 .x 15#5))),
   ([0x8F#8, 0xBE#8, 0xEF#8], .cps (.imm 0xBEEF#16)),
   ([0x9E#8, 0x9D#8], .cpx (.dir 0x9D#8)),
   ([0xBD#8, 0x12#8, 0x34#8], .cpy (.ext 0x1234#16)),
   ([0xE7#8, 0xE8#8, 0xFF#8], .tst (.idx (.off9 .y 255#9))),
   ([0x97#8], .tsta),
   ([0xD7#8], .tstb)]

theorem decode_tests : decodesAll words_tests = true := by decide +kernel

/-- Short branches: words written from opcode_table.json, one or more for each constructor. -/
def words_short_branches : List (List Byte × Instr) :=
  [([0x21#8, 0xF6#8], .brn 0xF6#8),
   ([0x20#8, 0xF6#8], .bra 0xF6#8),
   ([0x24#8, 0xF6#8], .bcc 0xF6#8),
   ([0x25#8, 0xF6#8], .bcs 0xF6#8),
   ([0x27#8, 0xF6#8], .beq 0xF6#8),
   ([0x26#8, 0xF6#8], .bne 0xF6#8),
   ([0x2B#8, 0xF6#8], .bmi 0xF6#8),
   ([0x2A#8, 0xF6#8], .bpl 0xF6#8),
   ([0x29#8, 0xF6#8], .bvs 0xF6#8),
   ([0x28#8, 0xF6#8], .bvc 0xF6#8),
   ([0x24#8, 0xF6#8], .bcc 0xF6#8),
   ([0x22#8, 0xF6#8], .bhi 0xF6#8),
   ([0x23#8, 0xF6#8], .bls 0xF6#8),
   ([0x25#8, 0xF6#8], .bcs 0xF6#8),
   ([0x2C#8, 0xF6#8], .bge 0xF6#8),
   ([0x2E#8, 0xF6#8], .bgt 0xF6#8),
   ([0x2F#8, 0xF6#8], .ble 0xF6#8),
   ([0x2D#8, 0xF6#8], .blt 0xF6#8)]

theorem decode_short_branches : decodesAll words_short_branches = true := by decide +kernel

/-- Long branches and BRSET: words written from opcode_table.json, one or more for each constructor. -/
def words_long_branches : List (List Byte × Instr) :=
  [([0x18#8, 0x21#8, 0x80#8, 0x01#8], .lbrn 0x8001#16),
   ([0x18#8, 0x20#8, 0x80#8, 0x01#8], .lbra 0x8001#16),
   ([0x18#8, 0x24#8, 0x80#8, 0x01#8], .lbcc 0x8001#16),
   ([0x18#8, 0x25#8, 0x80#8, 0x01#8], .lbcs 0x8001#16),
   ([0x18#8, 0x27#8, 0x80#8, 0x01#8], .lbeq 0x8001#16),
   ([0x18#8, 0x26#8, 0x80#8, 0x01#8], .lbne 0x8001#16),
   ([0x18#8, 0x2B#8, 0x80#8, 0x01#8], .lbmi 0x8001#16),
   ([0x18#8, 0x2A#8, 0x80#8, 0x01#8], .lbpl 0x8001#16),
   ([0x18#8, 0x29#8, 0x80#8, 0x01#8], .lbvs 0x8001#16),
   ([0x18#8, 0x28#8, 0x80#8, 0x01#8], .lbvc 0x8001#16),
   ([0x18#8, 0x24#8, 0x80#8, 0x01#8], .lbcc 0x8001#16),
   ([0x18#8, 0x22#8, 0x80#8, 0x01#8], .lbhi 0x8001#16),
   ([0x18#8, 0x23#8, 0x80#8, 0x01#8], .lbls 0x8001#16),
   ([0x18#8, 0x25#8, 0x80#8, 0x01#8], .lbcs 0x8001#16),
   ([0x18#8, 0x2C#8, 0x80#8, 0x01#8], .lbge 0x8001#16),
   ([0x18#8, 0x2E#8, 0x80#8, 0x01#8], .lbgt 0x8001#16),
   ([0x18#8, 0x2F#8, 0x80#8, 0x01#8], .lble 0x8001#16),
   ([0x18#8, 0x2D#8, 0x80#8, 0x01#8], .lblt 0x8001#16),
   ([0x4E#8, 0x9D#8, 0x3C#8, 0xF6#8], .brset (.dir 0x9D#8) 0x3C#8 0xF6#8),
   ([0x1E#8, 0x12#8, 0x34#8, 0x3C#8, 0xF6#8], .brset (.ext 0x1234#16) 0x3C#8 0xF6#8),
   ([0x0E#8, 0xF2#8, 0x10#8, 0x00#8, 0x3C#8, 0xF6#8], .brset (.idx (.off16 .sp 0x1000#16)) 0x3C#8 0xF6#8)]

theorem decode_long_branches : decodesAll words_long_branches = true := by decide +kernel

/-- Calls and SWI: words written from opcode_table.json, one or more for each constructor. -/
def words_calls : List (List Byte × Instr) :=
  [([0x17#8, 0x9D#8], .jsr (.dir 0x9D#8)),
   ([0x3D#8], .rts),
   ([0x3F#8], .swi)]

theorem decode_calls : decodesAll words_calls = true := by decide +kernel

/-- Names that share an encoding (30_encoding.md R123, R124). -/
theorem decode_aliases :
    Instr.canon (.asl (.ext 1#16)) = .lsl (.ext 1#16) ∧ Instr.canon (.bhs 1#8) = .bcc 1#8 ∧
    Instr.canon (.lblo 1#16) = .lbcs 1#16 ∧ Instr.canon (.andcc 0xFE#8) = .clc ∧
    Instr.canon (.andcc 0xEF#8) = .cli ∧ Instr.canon (.andcc 0xFD#8) = .clv ∧
    Instr.canon (.andcc 0xFC#8) = .andcc 0xFC#8 := by decide

/-- Refused bytes: vectors Trefuse-1, 4, 8, 9, 14, 20. -/
theorem decode_refused :
    decode [0xEE#8, 0x31#8] = .refused ∧ decode [0x0C#8, 0xE7#8, 0x01#8] = .refused ∧
    decode [0x18#8, 0x08#8, 0xE2#8, 0x10#8, 0x00#8, 0x55#8] = .refused ∧
    decode [0x18#8, 0x0A#8, 0x30#8, 0x30#8] = .refused ∧
    decode [0x1B#8, 0x80#8] = .refused ∧ decode [0x4F#8] = .refused ∧ decode [0x18#8, 0x30#8] = .refused := by
  decide

/-- Numbers as opcode_table.json numbers bits: the first byte in bits 7..0; the missing operand bytes are zero. -/
theorem decode_table_words :
    decodeTableWord 16 0x9C86 = some (.ldaa (.imm 0x9C#8)) ∧
    decodeTableWord 8 0xF6 = some (.ldab (.ext 0x0000#16)) ∧
    decodeTableWord 16 0x0818 = some (.movb (.imm 0x00#8) (.idx (.off5 .x 0#5))) ∧
    decodeTableWord 8 0xA7 = none := by decide

/-- The instruction that `withFetchWord` places is the next one to run: LDAA #$9C. -/
theorem fetch_word : answers (Machine.step (State.reset.withFetchWord 16 0x9C86))
    { State.reset.withFetchWord 16 0x9C86 with
      a := 0x9C#8, pc := 0x4002#16, ccr := { Ccr.reset with n := true } } = true := by decide

/-! ## Effective addresses: the source's eleven examples (vectors Tea-1 to Tea-11), and corners -/

theorem ea_off5 : eaIs (.off5 .x 15#5) { s0 with x := 0x1000#16 } 0x100F#16 { s0 with x := 0x1000#16 } = true ∧
    eaIs (.off5 .x 16#5) { s0 with x := 0x0008#16 } 0xFFF8#16 { s0 with x := 0x0008#16 } = true := by decide
theorem ea_off9 : eaIs (.off9 .y 255#9) { s0 with y := 0x1000#16 } 0x10FF#16 { s0 with y := 0x1000#16 } = true ∧
    eaIs (.off9 .x 256#9) { s0 with x := 0x1100#16 } 0x1000#16 { s0 with x := 0x1100#16 } = true := by decide
theorem ea_off16 : eaIs (.off16 .pc 0x1000#16) s0 0x5004#16 s0 = true ∧
    eaIs (.off16 .x 0xFFFF#16) { s0 with x := 0x1001#16 } 0x1000#16 { s0 with x := 0x1001#16 } = true := by decide
theorem ea_acc : eaIs (.acc .sp .b) { s0 with sp := 0x2000#16, b := 0xFF#8 } 0x20FF#16
      { s0 with sp := 0x2000#16, b := 0xFF#8 } = true ∧
    eaIs (.acc .x .d) { s0 with x := 0xF000#16, a := 0x20#8, b := 0x00#8 } 0x1000#16
      { s0 with x := 0xF000#16, a := 0x20#8, b := 0x00#8 } = true := by decide
theorem ea_pre : eaIs (.auto .sp .pre 7#4) { s0 with sp := 0x2000#16 } 0x2008#16 { s0 with sp := 0x2008#16 } = true ∧
    eaIs (.auto .y .pre 8#4) { s0 with y := 0x2000#16 } 0x1FF8#16 { s0 with y := 0x1FF8#16 } = true := by decide
theorem ea_post : eaIs (.auto .x .post 0#4) { s0 with x := 0x2000#16 } 0x2000#16 { s0 with x := 0x2001#16 } = true ∧
    eaIs (.auto .x .post 12#4) { s0 with x := 0x2000#16 } 0x2000#16 { s0 with x := 0x1FFC#16 } = true := by decide
theorem ea_ind16 :
    let s := { s0 with x := 0x2000#16, mem := puts [] [(0x3000#16, 0x12#8), (0x3001#16, 0x34#8)] }
    eaIs (.ind16 .x 0x1000#16) s 0x1234#16 s = true := by decide
theorem ea_indD :
    let s := { s0 with a := 0x01#8, b := 0x00#8, mem := puts [] [(0x4104#16, 0x20#8), (0x4105#16, 0x00#8)] }
    eaIs (.indD .pc) s 0x2000#16 s = true := by decide

/-! ## One step -/

/-- Faults: vectors Tfault-1, 4, 8. -/
theorem test_fault_unwritten :
    faults (Machine.step (setUp [0xB6#8, 0x20#8, 0x00#8] [] s0)) (.unwritten 0x2000#16) = true := by decide
theorem test_fault_code :
    faults (Machine.step (setUp [0x7A#8, 0x40#8, 0x01#8] [] s0)) (.storeToCode 0x4001#16) = true := by decide
theorem test_fault_rts :
    faults (Machine.step (setUp [0x3D#8] [(0x3BFE#16, 0x40#8)] { s0 with sp := 0x3BFE#16 }))
      (.unwritten 0x3BFF#16) = true := by decide

/-- A refusal: vector Trefuse-9. -/
theorem test_refusal :
    refuses (Machine.step (setUp [0x18#8, 0x0A#8, 0x30#8, 0x30#8] [(0x1000#16, 0x01#8)] { s0 with x := 0x1000#16 }))
      [0x18#8, 0x0A#8, 0x30#8, 0x30#8] = true := by decide

/-- SWI ends the run and changes nothing else (vector T46-11); no step follows. -/
theorem test_swi_T46_11 : goesTo (setUp [0x3F#8] [] s0) (fun s => { s with halted := true }) = true ∧
    faults (Machine.step { setUp [0x3F#8] [] s0 with halted := true }) .runOver = true := by decide

/-- Vectors Tpar-2, 5, 6, 8, 9, and their neighbours by 92_eei_decisions.md D15, D16. -/
theorem test_abx_unchanged :
    goesTo (setUp [0x1A#8, 0xE5#8] []
        { s0 with x := 0xFFFF#16, b := 0x02#8, params := { Params.default with abxyFlags := .unchanged } })
      (fun s => { s with x := 0x0001#16, pc := 0x4002#16 }) = true := by decide
theorem test_aby_unchanged :
    goesTo (setUp [0x19#8, 0xED#8] []
        { s0 with y := 0x0000#16, b := 0xFF#8, params := { Params.default with abxyFlags := .unchanged } })
      (fun s => { s with y := 0x00FF#16, pc := 0x4002#16 }) = true := by decide
theorem test_dey_silicon :
    goesTo (setUp [0x03#8] [] { s0 with y := 0x0001#16, params := { Params.default with incDec16Z := .silicon } })
      (fun s => { s with y := 0x0000#16, pc := 0x4001#16, ccr := { s.ccr with z := true } }) = true := by decide
theorem test_iny_source :
    goesTo (setUp [0x02#8] [] { s0 with y := 0xFFFF#16, params := { Params.default with incDec16Z := .source } })
      (fun s => { s with y := 0x0000#16, pc := 0x4001#16 }) = true := by decide
theorem test_des_source :
    goesTo (setUp [0x1B#8, 0x9F#8] []
        { s0 with sp := 0x0001#16, params := { Params.default with incDec16Z := .source } })
      (fun s => { s with sp := 0x0000#16, pc := 0x4002#16, ccr := { s.ccr with z := true } }) = true := by decide
theorem test_ins_silicon :
    goesTo (setUp [0x1B#8, 0x81#8] []
        { s0 with sp := 0xFFFF#16, params := { Params.default with incDec16Z := .silicon } })
      (fun s => { s with sp := 0x0000#16, pc := 0x4002#16 }) = true := by decide
theorem test_orcc_not_sticky :
    goesTo (setUp [0x14#8, 0x40#8] []
        { s0 with ccr := Ccr.ofByte 0x00#8, params := { Params.default with xbitSticky := false } })
      (fun s => { s with pc := 0x4002#16, ccr := { s.ccr with x := true } }) = true := by decide

/-- Steps of the programs P3 (LDAB) and P4 (LDY), and by 40_data_transfer.md R150, 41_shift_rotate.md R182. -/
theorem test_ldab_P3 : goesTo (setUp [0xC6#8, 0x03#8] [] s0) (fun s => { s with
    b := 0x03#8, pc := 0x4002#16, ccr := { s.ccr with n := false, z := false, v := false } }) = true := by decide
theorem test_ldy_P4 : goesTo (setUp [0xCD#8, 0x11#8, 0x00#8] [] s0) (fun s => { s with
    y := 0x1100#16, pc := 0x4003#16, ccr := { s.ccr with n := false, z := false, v := false } }) = true := by decide
theorem test_sty : goesTo (setUp [0x5D#8, 0xFF#8] [] s0) (fun s => { s with
    pc := 0x4002#16, ccr := { s.ccr with n := false, z := false, v := false },
    mem := puts s.mem [(0x00FF#16, 0x6A#8), (0x0100#16, 0x6A#8)] }) = true := by decide
theorem test_lslb : goesTo (setUp [0x58#8] [] s0) (fun s => { s with
    b := 0x86#8, pc := 0x4001#16, ccr := { s.ccr with n := true, z := false, v := false, c := true } }) = true := by
  decide

theorem test_ldaa_T40_3 :
    goesTo (setUp [0x86#8, 0xFF#8] [] { s0 with ccr := { mixed with c := true, v := true } })
      (fun s => { s with
          a := 0xFF#8, pc := 0x4002#16,
          ccr := { s.ccr with n := true, z := false, v := false } }) = true := by decide

theorem test_ldd_T40_7 :
    goesTo (setUp [0xEC#8, 0x31#8] [(0x1000#16, 0x00#8), (0x1001#16, 0x00#8)] { s0 with x := 0x1000#16 })
      (fun s => { s with
          x := 0x1002#16, a := 0x00#8, b := 0x00#8, pc := 0x4002#16,
          ccr := { s.ccr with n := false, z := true, v := false } }) = true := by decide

theorem test_ldx_T40_6 :
    goesTo (setUp [0xCE#8, 0x80#8, 0x00#8] [] s0)
      (fun s => { s with
          x := 0x8000#16, pc := 0x4003#16,
          ccr := { s.ccr with n := true, z := false, v := false } }) = true := by decide

theorem test_ldx_Tea_11 :
    goesTo (setUp [0xEE#8, 0xFF#8] [(0x4102#16, 0x20#8), (0x4103#16, 0x00#8), (0x2000#16, 0xAB#8), (0x2001#16, 0xCD#8)]
        { s0 with a := 0x01#8, b := 0x00#8 })
      (fun s => { s with
          x := 0xABCD#16, pc := 0x4002#16,
          ccr := { s.ccr with n := true, z := false, v := false } }) = true := by decide

theorem test_lds_T40_8 :
    goesTo (setUp [0xCF#8, 0x00#8, 0x00#8] [] s0)
      (fun s => { s with
          sp := 0x0000#16, pc := 0x4003#16,
          ccr := { s.ccr with n := false, z := true, v := false } }) = true := by decide

theorem test_staa_T40_9 :
    goesTo (setUp [0x5A#8, 0x10#8] [] { s0 with a := 0x00#8 })
      (fun s => { s with
          pc := 0x4002#16,
          ccr := { s.ccr with n := false, z := true, v := false },
          mem := puts s.mem [(0x0010#16, 0x00#8)] }) = true := by decide

theorem test_stab_T40_10 :
    goesTo (setUp [0x7B#8, 0x44#8, 0x00#8] [] { s0 with b := 0xFF#8 })
      (fun s => { s with
          pc := 0x4003#16,
          ccr := { s.ccr with n := true, z := false, v := false },
          mem := puts s.mem [(0x4400#16, 0xFF#8)] }) = true := by decide

theorem test_std_T40_11 :
    goesTo (setUp [0x7C#8, 0xFF#8, 0xFF#8] [] { s0 with a := 0x80#8, b := 0x01#8 })
      (fun s => { s with
          pc := 0x4003#16,
          ccr := { s.ccr with n := true, z := false, v := false },
          mem := puts s.mem [(0xFFFF#16, 0x80#8), (0x0000#16, 0x01#8)] }) = true := by decide

theorem test_stx_T40_12 :
    goesTo (setUp [0x6E#8, 0xA9#8] [] { s0 with sp := 0x3C00#16, x := 0x1234#16 })
      (fun s => { s with
          sp := 0x3BF9#16, pc := 0x4002#16,
          ccr := { s.ccr with n := false, z := false, v := false },
          mem := puts s.mem [(0x3BF9#16, 0x12#8), (0x3BFA#16, 0x34#8)] }) = true := by decide

theorem test_sts_T40_13 :
    goesTo (setUp [0x6F#8, 0x40#8] [] { s0 with y := 0x1000#16, sp := 0x0000#16 })
      (fun s => { s with
          pc := 0x4002#16,
          ccr := { s.ccr with n := false, z := true, v := false },
          mem := puts s.mem [(0x1000#16, 0x00#8), (0x1001#16, 0x00#8)] }) = true := by decide

theorem test_tab_T40_15 :
    goesTo (setUp [0x18#8, 0x0E#8] [] { s0 with a := 0x00#8, b := 0x55#8 })
      (fun s => { s with
          b := 0x00#8, pc := 0x4002#16,
          ccr := { s.ccr with n := false, z := true, v := false } }) = true := by decide

theorem test_tba_T40_16 :
    goesTo (setUp [0x18#8, 0x0F#8] [] { s0 with a := 0x00#8, b := 0xFF#8 })
      (fun s => { s with
          a := 0xFF#8, pc := 0x4002#16,
          ccr := { s.ccr with n := true, z := false, v := false } }) = true := by decide

theorem test_tap_T40_17 :
    goesTo (setUp [0xB7#8, 0x02#8] [] { s0 with a := 0xFF#8, ccr := Ccr.ofByte 0x00#8 })
      (fun s => { s with
          pc := 0x4002#16,
          ccr := ⟨true, false, true, true, true, true, true, true⟩ }) = true := by decide

theorem test_tap_T40_18 :
    goesTo (setUp [0xB7#8, 0x02#8] [] { s0 with a := 0xFF#8, ccr := Ccr.ofByte 0x40#8 })
      (fun s => { s with
          pc := 0x4002#16,
          ccr := ⟨true, true, true, true, true, true, true, true⟩ }) = true := by decide

theorem test_tpa_T40_21 :
    goesTo (setUp [0xB7#8, 0x20#8] [] { s0 with a := 0x00#8, ccr := Ccr.ofByte 0xFF#8 })
      (fun s => { s with a := 0xFF#8, pc := 0x4002#16 }) = true := by decide

theorem test_movb_T40_24 :
    goesTo (setUp [0x18#8, 0x0C#8, 0x10#8, 0x00#8, 0x10#8, 0x01#8] [(0x1000#16, 0x42#8)] s0)
      (fun s => { s with pc := 0x4006#16, mem := puts s.mem [(0x1001#16, 0x42#8)] }) = true := by decide

theorem test_movb_T40_26 :
    goesTo (setUp [0x18#8, 0x0D#8, 0x3F#8, 0x20#8, 0x00#8] [(0x1000#16, 0x07#8)] { s0 with x := 0x1000#16 })
      (fun s => { s with
          x := 0x0FFF#16, pc := 0x4005#16,
          mem := puts s.mem [(0x2000#16, 0x07#8)] }) = true := by decide

theorem test_movw_T40_28 :
    goesTo (setUp [0x18#8, 0x00#8, 0x6E#8, 0xAB#8, 0xCD#8] [] { s0 with y := 0x1002#16 })
      (fun s => { s with
          y := 0x1000#16, pc := 0x4005#16,
          mem := puts s.mem [(0x1000#16, 0xAB#8), (0x1001#16, 0xCD#8)] }) = true := by decide

theorem test_movw_T40_29 :
    goesTo (setUp [0x18#8, 0x04#8, 0x10#8, 0x00#8, 0x10#8, 0x01#8] [(0x1000#16, 0xAA#8), (0x1001#16, 0xBB#8)] s0)
      (fun s => { s with
          pc := 0x4006#16,
          mem := puts s.mem [(0x1001#16, 0xAA#8), (0x1002#16, 0xBB#8)] }) = true := by decide

theorem test_lsl_T41_26 :
    goesTo (setUp [0x78#8, 0x10#8, 0x00#8] [(0x1000#16, 0x55#8)] s0)
      (fun s => { s with
          pc := 0x4003#16,
          ccr := { s.ccr with n := true, z := false, v := true, c := false },
          mem := puts s.mem [(0x1000#16, 0xAA#8)] }) = true := by decide

theorem test_lsla_T41_4 :
    goesTo (setUp [0x48#8] [] { s0 with a := 0xC0#8 })
      (fun s => { s with
          a := 0x80#8, pc := 0x4001#16,
          ccr := { s.ccr with n := true, z := false, v := false, c := true } }) = true := by decide

theorem test_lsld_T41_6 :
    goesTo (setUp [0x59#8] [] { s0 with a := 0xFF#8, b := 0xFF#8 })
      (fun s => { s with
          a := 0xFF#8, b := 0xFE#8, pc := 0x4001#16,
          ccr := { s.ccr with n := true, z := false, v := false, c := true } }) = true := by decide

theorem test_lsr_T41_28 :
    goesTo (setUp [0x74#8, 0x10#8, 0x00#8] [(0x1000#16, 0x02#8)] s0)
      (fun s => { s with
          pc := 0x4003#16,
          ccr := { s.ccr with n := false, z := false, v := false, c := false },
          mem := puts s.mem [(0x1000#16, 0x01#8)] }) = true := by decide

theorem test_lsra_T41_9 :
    goesTo (setUp [0x44#8] [] { s0 with a := 0xFF#8 })
      (fun s => { s with
          a := 0x7F#8, pc := 0x4001#16,
          ccr := { s.ccr with n := false, z := false, v := true, c := true } }) = true := by decide

theorem test_lsrb_T41_10 :
    goesTo (setUp [0x54#8] [] { s0 with b := 0x00#8 })
      (fun s => { s with
          b := 0x00#8, pc := 0x4001#16,
          ccr := { s.ccr with n := false, z := true, v := false, c := false } }) = true := by decide

theorem test_lsrd_T41_13 :
    goesTo (setUp [0x49#8] [] { s0 with a := 0xFF#8, b := 0xFF#8 })
      (fun s => { s with
          a := 0x7F#8, b := 0xFF#8, pc := 0x4001#16,
          ccr := { s.ccr with n := false, z := false, v := true, c := true } }) = true := by decide

theorem test_asr_T41_29 :
    goesTo (setUp [0x77#8, 0x10#8, 0x00#8] [(0x1000#16, 0xFE#8)] s0)
      (fun s => { s with
          pc := 0x4003#16,
          ccr := { s.ccr with n := true, z := false, v := true, c := false },
          mem := puts s.mem [(0x1000#16, 0xFF#8)] }) = true := by decide

theorem test_asra_T41_14 :
    goesTo (setUp [0x47#8] [] { s0 with a := 0x80#8 })
      (fun s => { s with
          a := 0xC0#8, pc := 0x4001#16,
          ccr := { s.ccr with n := true, z := false, v := true, c := false } }) = true := by decide

theorem test_asrb_T41_16 :
    goesTo (setUp [0x57#8] [] { s0 with b := 0x02#8 })
      (fun s => { s with
          b := 0x01#8, pc := 0x4001#16,
          ccr := { s.ccr with n := false, z := false, v := false, c := false } }) = true := by decide

theorem test_rol_T41_30 :
    goesTo (setUp [0x65#8, 0x40#8] [(0x1000#16, 0x7F#8)]
        { s0 with y := 0x1000#16, ccr := { mixed with c := true } })
      (fun s => { s with
          pc := 0x4002#16,
          ccr := { s.ccr with n := true, z := false, v := true, c := false },
          mem := puts s.mem [(0x1000#16, 0xFF#8)] }) = true := by decide

theorem test_rola_T41_18 :
    goesTo (setUp [0x45#8] [] { s0 with a := 0x80#8, ccr := { mixed with c := false } })
      (fun s => { s with
          a := 0x00#8, pc := 0x4001#16,
          ccr := { s.ccr with n := false, z := true, v := true, c := true } }) = true := by decide

theorem test_rolb_T41_21 :
    goesTo (setUp [0x55#8] [] { s0 with b := 0x40#8, ccr := { mixed with c := true } })
      (fun s => { s with
          b := 0x81#8, pc := 0x4001#16,
          ccr := { s.ccr with n := true, z := false, v := true, c := false } }) = true := by decide

theorem test_ror_T41_31 :
    goesTo (setUp [0x66#8, 0xE4#8] [(0x1001#16, 0x01#8)]
        { s0 with x := 0x1000#16, a := 0x01#8, ccr := { mixed with c := false } })
      (fun s => { s with
          pc := 0x4002#16,
          ccr := { s.ccr with n := false, z := true, v := true, c := true },
          mem := puts s.mem [(0x1001#16, 0x00#8)] }) = true := by decide

theorem test_rora_T41_23 :
    goesTo (setUp [0x46#8] [] { s0 with a := 0x01#8, ccr := { mixed with c := true } })
      (fun s => { s with
          a := 0x80#8, pc := 0x4001#16,
          ccr := { s.ccr with n := true, z := false, v := false, c := true } }) = true := by decide

theorem test_rorb_T41_24 :
    goesTo (setUp [0x56#8] [] { s0 with b := 0xFF#8, ccr := { mixed with c := false } })
      (fun s => { s with
          b := 0x7F#8, pc := 0x4001#16,
          ccr := { s.ccr with n := false, z := false, v := true, c := true } }) = true := by decide

theorem test_aba_T42_2 :
    goesTo (setUp [0x18#8, 0x06#8] [] { s0 with a := 0x80#8, b := 0x80#8 })
      (fun s => { s with
          a := 0x00#8, pc := 0x4002#16,
          ccr := { s.ccr with h := false, n := false, z := true, v := true, c := true } }) = true := by decide

theorem test_aba_T42_3 :
    goesTo (setUp [0x18#8, 0x06#8] [] { s0 with a := 0x08#8, b := 0x08#8 })
      (fun s => { s with
          a := 0x10#8, pc := 0x4002#16,
          ccr := { s.ccr with h := true, n := false, z := false, v := false, c := false } }) = true := by decide

theorem test_adda_T42_7 :
    goesTo (setUp [0x8B#8, 0x7F#8] [] { s0 with a := 0x7F#8 })
      (fun s => { s with
          a := 0xFE#8, pc := 0x4002#16,
          ccr := { s.ccr with h := true, n := true, z := false, v := true, c := false } }) = true := by decide

theorem test_addb_T42_10 :
    goesTo (setUp [0xCB#8, 0xFF#8] [] { s0 with b := 0xFF#8 })
      (fun s => { s with
          b := 0xFE#8, pc := 0x4002#16,
          ccr := { s.ccr with h := true, n := true, z := false, v := false, c := true } }) = true := by decide

theorem test_addd_T42_12 :
    goesTo (setUp [0xC3#8, 0x80#8, 0x00#8] [] { s0 with a := 0x80#8, b := 0x00#8 })
      (fun s => { s with
          a := 0x00#8, b := 0x00#8, pc := 0x4003#16,
          ccr := { s.ccr with n := false, z := true, v := true, c := true } }) = true := by decide

theorem test_adca_T42_15 :
    goesTo (setUp [0x89#8, 0x7F#8] [] { s0 with a := 0x00#8, ccr := { mixed with c := true } })
      (fun s => { s with
          a := 0x80#8, pc := 0x4002#16,
          ccr := { s.ccr with h := true, n := true, z := false, v := true, c := false } }) = true := by decide

theorem test_adcb_T42_16 :
    goesTo (setUp [0xC9#8, 0x0F#8] [] { s0 with b := 0x00#8, ccr := { mixed with c := true } })
      (fun s => { s with
          b := 0x10#8, pc := 0x4002#16,
          ccr := { s.ccr with h := true, n := false, z := false, v := false, c := false } }) = true := by decide

theorem test_sba_T42_19 :
    goesTo (setUp [0x18#8, 0x16#8] [] { s0 with a := 0x7F#8, b := 0xFF#8 })
      (fun s => { s with
          a := 0x80#8, pc := 0x4002#16,
          ccr := { s.ccr with n := true, z := false, v := true, c := true } }) = true := by decide

theorem test_suba_T42_21 :
    goesTo (setUp [0x80#8, 0xFF#8] [] { s0 with a := 0x7F#8 })
      (fun s => { s with
          a := 0x80#8, pc := 0x4002#16,
          ccr := { s.ccr with n := true, z := false, v := true, c := true } }) = true := by decide

theorem test_subb_T42_22 :
    goesTo (setUp [0xC0#8, 0x01#8] [] { s0 with b := 0x01#8 })
      (fun s => { s with
          b := 0x00#8, pc := 0x4002#16,
          ccr := { s.ccr with n := false, z := true, v := false, c := false } }) = true := by decide

theorem test_subd_T42_24 :
    goesTo (setUp [0x83#8, 0x80#8, 0x00#8] [] { s0 with a := 0x7F#8, b := 0xFF#8 })
      (fun s => { s with
          a := 0xFF#8, b := 0xFF#8, pc := 0x4003#16,
          ccr := { s.ccr with n := true, z := false, v := true, c := true } }) = true := by decide

theorem test_sbca_T42_27 :
    goesTo (setUp [0x82#8, 0x7F#8] [] { s0 with a := 0x80#8, ccr := { mixed with c := true } })
      (fun s => { s with
          a := 0x00#8, pc := 0x4002#16,
          ccr := { s.ccr with n := false, z := true, v := true, c := false } }) = true := by decide

theorem test_sbcb_T42_28 :
    goesTo (setUp [0xC2#8, 0xFF#8] [] { s0 with b := 0x00#8, ccr := { mixed with c := true } })
      (fun s => { s with
          b := 0x00#8, pc := 0x4002#16,
          ccr := { s.ccr with n := false, z := true, v := false, c := true } }) = true := by decide

theorem test_dec_T42_33 :
    goesTo (setUp [0x73#8, 0x10#8, 0x00#8] [(0x1000#16, 0x00#8)] s0)
      (fun s => { s with
          pc := 0x4003#16,
          ccr := { s.ccr with n := true, z := false, v := false },
          mem := puts s.mem [(0x1000#16, 0xFF#8)] }) = true := by decide

theorem test_deca_T42_31 :
    goesTo (setUp [0x43#8] [] { s0 with a := 0x80#8 })
      (fun s => { s with
          a := 0x7F#8, pc := 0x4001#16,
          ccr := { s.ccr with n := false, z := false, v := true } }) = true := by decide

theorem test_decb_T42_32 :
    goesTo (setUp [0x53#8] [] { s0 with b := 0x01#8 })
      (fun s => { s with
          b := 0x00#8, pc := 0x4001#16,
          ccr := { s.ccr with n := false, z := true, v := false } }) = true := by decide

theorem test_dex_T42_40 :
    goesTo (setUp [0x09#8] [] { s0 with x := 0x0001#16 })
      (fun s => { s with
          x := 0x0000#16, pc := 0x4001#16,
          ccr := { s.ccr with z := true } }) = true := by decide

theorem test_inc_T42_38 :
    goesTo (setUp [0x72#8, 0x10#8, 0x00#8] [(0x1000#16, 0x7F#8)] s0)
      (fun s => { s with
          pc := 0x4003#16,
          ccr := { s.ccr with n := true, z := false, v := true },
          mem := puts s.mem [(0x1000#16, 0x80#8)] }) = true := by decide

theorem test_inca_T42_36 :
    goesTo (setUp [0x42#8] [] { s0 with a := 0x7F#8 })
      (fun s => { s with
          a := 0x80#8, pc := 0x4001#16,
          ccr := { s.ccr with n := true, z := false, v := true } }) = true := by decide

theorem test_incb_T42_37 :
    goesTo (setUp [0x52#8] [] { s0 with b := 0x00#8 })
      (fun s => { s with
          b := 0x01#8, pc := 0x4001#16,
          ccr := { s.ccr with n := false, z := false, v := false } }) = true := by decide

theorem test_inx_T42_41 :
    goesTo (setUp [0x08#8] [] { s0 with x := 0xFFFF#16 })
      (fun s => { s with
          x := 0x0000#16, pc := 0x4001#16,
          ccr := { s.ccr with z := true } }) = true := by decide

theorem test_anda_T43_2 :
    goesTo (setUp [0x84#8, 0x00#8] [] { s0 with a := 0xFF#8, ccr := { mixed with v := true } })
      (fun s => { s with
          a := 0x00#8, pc := 0x4002#16,
          ccr := { s.ccr with n := false, z := true, v := false } }) = true := by decide

theorem test_andb_T43_3 :
    goesTo (setUp [0xC4#8, 0x0F#8] [] { s0 with b := 0x3C#8 })
      (fun s => { s with
          b := 0x0C#8, pc := 0x4002#16,
          ccr := { s.ccr with n := false, z := false, v := false } }) = true := by decide

theorem test_andcc_T43_13 :
    goesTo (setUp [0x10#8, 0xF0#8] [] { s0 with ccr := Ccr.ofByte 0x0F#8 })
      (fun s => { s with
          pc := 0x4002#16,
          ccr := ⟨false, false, false, false, false, false, false, false⟩ }) = true := by decide

theorem test_eora_T43_5 :
    goesTo (setUp [0x88#8, 0xFF#8] [] { s0 with a := 0xFF#8 })
      (fun s => { s with
          a := 0x00#8, pc := 0x4002#16,
          ccr := { s.ccr with n := false, z := true, v := false } }) = true := by decide

theorem test_eorb_T43_6 :
    goesTo (setUp [0xC8#8, 0x80#8] [] { s0 with b := 0x00#8 })
      (fun s => { s with
          b := 0x80#8, pc := 0x4002#16,
          ccr := { s.ccr with n := true, z := false, v := false } }) = true := by decide

theorem test_oraa_T43_7 :
    goesTo (setUp [0x8A#8, 0x0F#8] [] { s0 with a := 0xF0#8 })
      (fun s => { s with
          a := 0xFF#8, pc := 0x4002#16,
          ccr := { s.ccr with n := true, z := false, v := false } }) = true := by decide

theorem test_orab_T43_9 :
    goesTo (setUp [0xCA#8, 0x01#8] [] { s0 with b := 0x80#8 })
      (fun s => { s with
          b := 0x81#8, pc := 0x4002#16,
          ccr := { s.ccr with n := true, z := false, v := false } }) = true := by decide

theorem test_orcc_T43_14 :
    goesTo (setUp [0x14#8, 0xFF#8] [] { s0 with ccr := Ccr.ofByte 0x00#8 })
      (fun s => { s with
          pc := 0x4002#16,
          ccr := ⟨true, false, true, true, true, true, true, true⟩ }) = true := by decide

theorem test_orcc_T43_15 :
    goesTo (setUp [0x14#8, 0xFF#8] [] { s0 with ccr := Ccr.ofByte 0x40#8 })
      (fun s => { s with
          pc := 0x4002#16,
          ccr := ⟨true, true, true, true, true, true, true, true⟩ }) = true := by decide

theorem test_clc_T43_19 :
    goesTo (setUp [0x10#8, 0xFE#8] [] { s0 with ccr := { mixed with c := true } })
      (fun s => { s with pc := 0x4002#16, ccr := { s.ccr with c := false } }) = true := by decide

theorem test_cli_T43_21 :
    goesTo (setUp [0x10#8, 0xEF#8] [] { s0 with ccr := { mixed with i := true } })
      (fun s => { s with pc := 0x4002#16, ccr := { s.ccr with i := false } }) = true := by decide

theorem test_clv_T43_22 :
    goesTo (setUp [0x10#8, 0xFD#8] [] { s0 with ccr := { mixed with v := true } })
      (fun s => { s with pc := 0x4002#16, ccr := { s.ccr with v := false } }) = true := by decide

theorem test_com_T43_26 :
    goesTo (setUp [0x71#8, 0x10#8, 0x00#8] [(0x1000#16, 0x80#8)] s0)
      (fun s => { s with
          pc := 0x4003#16,
          ccr := { s.ccr with n := false, z := false, v := false, c := true },
          mem := puts s.mem [(0x1000#16, 0x7F#8)] }) = true := by decide

theorem test_coma_T43_24 :
    goesTo (setUp [0x41#8] [] { s0 with a := 0x55#8 })
      (fun s => { s with
          a := 0xAA#8, pc := 0x4001#16,
          ccr := { s.ccr with n := true, z := false, v := false, c := true } }) = true := by decide

theorem test_comb_T43_25 :
    goesTo (setUp [0x51#8] [] { s0 with b := 0xFF#8 })
      (fun s => { s with
          b := 0x00#8, pc := 0x4001#16,
          ccr := { s.ccr with n := false, z := true, v := false, c := true } }) = true := by decide

theorem test_neg_T43_32 :
    goesTo (setUp [0x70#8, 0x10#8, 0x00#8] [(0x1000#16, 0x02#8)] s0)
      (fun s => { s with
          pc := 0x4003#16,
          ccr := { s.ccr with n := true, z := false, v := false, c := true },
          mem := puts s.mem [(0x1000#16, 0xFE#8)] }) = true := by decide

theorem test_nega_T43_29 :
    goesTo (setUp [0x40#8] [] { s0 with a := 0x80#8 })
      (fun s => { s with
          a := 0x80#8, pc := 0x4001#16,
          ccr := { s.ccr with n := true, z := false, v := true, c := true } }) = true := by decide

theorem test_negb_T43_30 :
    goesTo (setUp [0x50#8] [] { s0 with b := 0xFF#8 })
      (fun s => { s with
          b := 0x01#8, pc := 0x4001#16,
          ccr := { s.ccr with n := false, z := false, v := false, c := true } }) = true := by decide

theorem test_bclr_T43_36 :
    goesTo (setUp [0x0D#8, 0x30#8, 0xF0#8] [(0x1000#16, 0x7F#8)] { s0 with x := 0x1000#16 })
      (fun s => { s with
          x := 0x1001#16, pc := 0x4003#16,
          ccr := { s.ccr with n := false, z := false, v := false },
          mem := puts s.mem [(0x1000#16, 0x0F#8)] }) = true := by decide

theorem test_bita_T43_41 :
    goesTo (setUp [0x85#8, 0x01#8] [] { s0 with a := 0x02#8, ccr := { mixed with v := true } })
      (fun s => { s with
          pc := 0x4002#16,
          ccr := { s.ccr with n := false, z := true, v := false } }) = true := by decide

theorem test_bitb_T43_43 :
    goesTo (setUp [0xE5#8, 0xE7#8] [(0x1000#16, 0x20#8), (0x1001#16, 0x00#8), (0x2000#16, 0xFF#8)]
        { s0 with x := 0x1000#16, a := 0x00#8, b := 0x00#8 })
      (fun s => { s with
          pc := 0x4002#16,
          ccr := { s.ccr with n := false, z := true, v := false } }) = true := by decide

theorem test_bset_T43_39 :
    goesTo (setUp [0x0C#8, 0xE5#8, 0x01#8] [(0x1002#16, 0x7E#8)] { s0 with x := 0x1000#16, b := 0x02#8 })
      (fun s => { s with
          pc := 0x4003#16,
          ccr := { s.ccr with n := false, z := false, v := false },
          mem := puts s.mem [(0x1002#16, 0x7F#8)] }) = true := by decide

theorem test_cba_T44_2 :
    goesTo (setUp [0x18#8, 0x17#8] [] { s0 with a := 0x80#8, b := 0x7F#8 })
      (fun s => { s with
          pc := 0x4002#16,
          ccr := { s.ccr with n := false, z := false, v := true, c := false } }) = true := by decide

theorem test_cmpa_T44_6 :
    goesTo (setUp [0x81#8, 0x80#8] [] { s0 with a := 0x7F#8 })
      (fun s => { s with
          pc := 0x4002#16,
          ccr := { s.ccr with n := true, z := false, v := true, c := true } }) = true := by decide

theorem test_cmpb_T44_8 :
    goesTo (setUp [0xC1#8, 0x0A#8] [] { s0 with b := 0x09#8 })
      (fun s => { s with
          pc := 0x4002#16,
          ccr := { s.ccr with n := true, z := false, v := false, c := true } }) = true := by decide

theorem test_cpd_T44_11 :
    goesTo (setUp [0x8C#8, 0x80#8, 0x00#8] [] { s0 with a := 0x7F#8, b := 0xFF#8 })
      (fun s => { s with
          pc := 0x4003#16,
          ccr := { s.ccr with n := true, z := false, v := true, c := true } }) = true := by decide

theorem test_cps_T44_16 :
    goesTo (setUp [0x8F#8, 0x00#8, 0x01#8] [] { s0 with sp := 0x8000#16 })
      (fun s => { s with
          pc := 0x4003#16,
          ccr := { s.ccr with n := false, z := false, v := true, c := false } }) = true := by decide

theorem test_cpx_T44_17 :
    goesTo (setUp [0xAE#8, 0x00#8] [(0x1000#16, 0x10#8), (0x1001#16, 0x00#8)] { s0 with x := 0x1000#16 })
      (fun s => { s with
          pc := 0x4002#16,
          ccr := { s.ccr with n := false, z := true, v := false, c := false } }) = true := by decide

theorem test_cpy_T44_15 :
    goesTo (setUp [0x8D#8, 0x00#8, 0x00#8] [] { s0 with y := 0x8000#16 })
      (fun s => { s with
          pc := 0x4003#16,
          ccr := { s.ccr with n := true, z := false, v := false, c := false } }) = true := by decide

theorem test_tst_T44_22 :
    goesTo (setUp [0xE7#8, 0x30#8] [(0x1000#16, 0xFF#8)] { s0 with x := 0x1000#16 })
      (fun s => { s with
          x := 0x1001#16, pc := 0x4002#16,
          ccr := { s.ccr with n := true, z := false, v := false, c := false } }) = true := by decide

theorem test_tsta_T44_18 :
    goesTo (setUp [0x97#8] [] { s0 with a := 0x80#8, ccr := { mixed with c := true, v := true } })
      (fun s => { s with
          pc := 0x4001#16,
          ccr := { s.ccr with n := true, z := false, v := false, c := false } }) = true := by decide

theorem test_tstb_T44_20 :
    goesTo (setUp [0xD7#8] [] { s0 with b := 0x01#8 })
      (fun s => { s with
          pc := 0x4001#16,
          ccr := { s.ccr with n := false, z := false, v := false, c := false } }) = true := by decide

theorem test_bra_T45_4 :
    goesTo (setUp [0x20#8, 0x80#8] [] s0)
      (fun s => { s with pc := 0x3F82#16 }) = true := by decide

theorem test_brn_T45_5 :
    goesTo (setUp [0x21#8, 0x10#8] [] s0)
      (fun s => { s with pc := 0x4002#16 }) = true := by decide

theorem test_bra_T45_36 :
    goesTo (setUp [0x20#8, 0x10#8] [] { s0 with pc := 0xFFFE#16 })
      (fun s => { s with pc := 0x0010#16 }) = true := by decide

theorem test_lbra_T45_29 :
    goesTo (setUp [0x18#8, 0x20#8, 0x80#8, 0x00#8] [] s0)
      (fun s => { s with pc := 0xC004#16 }) = true := by decide

theorem test_lbrn_T45_32 :
    goesTo (setUp [0x18#8, 0x21#8, 0x01#8, 0x00#8] [] s0)
      (fun s => { s with pc := 0x4004#16 }) = true := by decide

theorem test_brset_T45_37 :
    goesTo (setUp [0x0E#8, 0xE4#8, 0x01#8, 0x0B#8] [(0x6000#16, 0xEE#8)]
        { s0 with a := 0x00#8, x := 0x6000#16, pc := 0x4005#16 })
      (fun s => { s with pc := 0x4009#16 }) = true := by decide

theorem test_brset_T45_38 :
    goesTo (setUp [0x0E#8, 0xE4#8, 0x01#8, 0x0B#8] [(0x6006#16, 0x55#8)]
        { s0 with a := 0x06#8, x := 0x6000#16, pc := 0x4005#16 })
      (fun s => { s with pc := 0x4014#16 }) = true := by decide

theorem test_jsr_T46_6 :
    goesTo (setUp [0x15#8, 0xFA#8, 0x01#8, 0x00#8] [] { s0 with sp := 0x3C00#16 })
      (fun s => { s with
          sp := 0x3BFE#16, pc := 0x4104#16,
          mem := puts s.mem [(0x3BFE#16, 0x40#8), (0x3BFF#16, 0x04#8)] }) = true := by decide

theorem test_jsr_T46_7 :
    goesTo (setUp [0x16#8, 0x40#8, 0x00#8] [] { s0 with sp := 0x0001#16 })
      (fun s => { s with
          sp := 0xFFFF#16, pc := 0x4000#16,
          mem := puts s.mem [(0xFFFF#16, 0x40#8), (0x0000#16, 0x03#8)] }) = true := by decide

theorem test_rts_T46_9 :
    goesTo (setUp [0x3D#8] [(0xFFFF#16, 0x12#8), (0x0000#16, 0x34#8)] { s0 with sp := 0xFFFF#16, pc := 0x5010#16 })
      (fun s => { s with sp := 0x0001#16, pc := 0x1234#16 }) = true := by decide

/-! ## Branches: the table of 95_test_vectors.md section 5 -/

/-- N, Z, V, C; then whether BCC (BHS), BCS (BLO), BEQ, BNE, BMI, BPL, BVS, BVC, BHI, BLS, BGE, BLT, BGT, BLE are
taken. -/
def branchTable : List (List Nat × List Nat) :=
  [([0, 0, 0, 0], [1, 0, 0, 1, 0, 1, 0, 1, 1, 0, 1, 0, 1, 0]),
   ([0, 0, 0, 1], [0, 1, 0, 1, 0, 1, 0, 1, 0, 1, 1, 0, 1, 0]),
   ([0, 0, 1, 0], [1, 0, 0, 1, 0, 1, 1, 0, 1, 0, 0, 1, 0, 1]),
   ([0, 0, 1, 1], [0, 1, 0, 1, 0, 1, 1, 0, 0, 1, 0, 1, 0, 1]),
   ([0, 1, 0, 0], [1, 0, 1, 0, 0, 1, 0, 1, 0, 1, 1, 0, 0, 1]),
   ([0, 1, 0, 1], [0, 1, 1, 0, 0, 1, 0, 1, 0, 1, 1, 0, 0, 1]),
   ([0, 1, 1, 0], [1, 0, 1, 0, 0, 1, 1, 0, 0, 1, 0, 1, 0, 1]),
   ([0, 1, 1, 1], [0, 1, 1, 0, 0, 1, 1, 0, 0, 1, 0, 1, 0, 1]),
   ([1, 0, 0, 0], [1, 0, 0, 1, 1, 0, 0, 1, 1, 0, 0, 1, 0, 1]),
   ([1, 0, 0, 1], [0, 1, 0, 1, 1, 0, 0, 1, 0, 1, 0, 1, 0, 1]),
   ([1, 0, 1, 0], [1, 0, 0, 1, 1, 0, 1, 0, 1, 0, 1, 0, 1, 0]),
   ([1, 0, 1, 1], [0, 1, 0, 1, 1, 0, 1, 0, 0, 1, 1, 0, 1, 0]),
   ([1, 1, 0, 0], [1, 0, 1, 0, 1, 0, 0, 1, 0, 1, 0, 1, 0, 1]),
   ([1, 1, 0, 1], [0, 1, 1, 0, 1, 0, 0, 1, 0, 1, 0, 1, 0, 1]),
   ([1, 1, 1, 0], [1, 0, 1, 0, 1, 0, 1, 0, 0, 1, 1, 0, 0, 1]),
   ([1, 1, 1, 1], [0, 1, 1, 0, 1, 0, 1, 0, 0, 1, 1, 0, 0, 1])]

/-- `s0` with these flags N, Z, V, C. -/
def withNzvc (f : List Nat) : State :=
  { s0 with ccr := { s0.ccr with n := f[0]! == 1, z := f[1]! == 1, v := f[2]! == 1, c := f[3]! == 1 } }

/-- Each branch goes to `next + offset` exactly where the table says so. -/
def branchesAre (mk : List Instr) (next target : Word) : Bool :=
  branchTable.all fun p => (mk.zip p.2).all fun q =>
    answers (exec q.1 (withNzvc p.1)) { withNzvc p.1 with pc := if q.2 = 1 then target else next }

theorem test_short_branches :
    branchesAre [.bcc 0x80#8, .bcs 0x80#8, .beq 0x80#8, .bne 0x80#8, .bmi 0x80#8, .bpl 0x80#8, .bvs 0x80#8,
      .bvc 0x80#8, .bhi 0x80#8, .bls 0x80#8, .bge 0x80#8, .blt 0x80#8, .bgt 0x80#8, .ble 0x80#8]
      0x4002#16 0x3F82#16 = true := by decide
theorem test_short_branch_aliases : branchesAre [.bhs 0x7F#8, .blo 0x7F#8] 0x4002#16 0x4081#16 = true := by decide
theorem test_long_branches :
    branchesAre [.lbcc 0x8000#16, .lbcs 0x8000#16, .lbeq 0x8000#16, .lbne 0x8000#16, .lbmi 0x8000#16,
      .lbpl 0x8000#16, .lbvs 0x8000#16, .lbvc 0x8000#16, .lbhi 0x8000#16, .lbls 0x8000#16, .lbge 0x8000#16,
      .lblt 0x8000#16, .lbgt 0x8000#16, .lble 0x8000#16] 0x4004#16 0xC004#16 = true := by decide
theorem test_long_branch_aliases :
    branchesAre [.lbhs 0xFFFC#16, .lblo 0xFFFC#16] 0x4004#16 0x4000#16 = true := by decide

/-! ## The assembler and the loader: the source's first example -/

/-- The text of the .ASM block, without its comments. -/
def loopProgram : String :=
  "        ORG     $4000\n        LDX     #$1000\n        LDAB    SUM\n        LDAA    #$00\nCHECK   CMPA    #$0A\n" ++
  "        BEQ     DONE\n        ADDB   0,X\n        INX\n        INCA\n        BRA     CHECK\n" ++
  "DONE    STAB    SUM\nSUM     EQU     $4400\n        END\n"

/-- The text of the .S19 block. -/
def loopRecords : String :=
  "S0030000FC\nS1134000CE1000F644008600810A2706EB00084221\nS108401020F67B4400D2\nS9030000FC\n"

set_option maxRecDepth 100000 in
/-- The assembler gives the printed records. -/
theorem test_assembler :
    (assembleRecords loopProgram).map (fun (rs : List Record) => rs.map Record.text) =
      some [("S0030000FC" : String).toList, "S1134000CE1000F644008600810A2706EB00084221".toList,
        "S108401020F67B4400D2".toList, "S9030000FC".toList] := by decide +kernel

set_option maxRecDepth 100000 in
/-- The loader puts the printed bytes where the listing has them. -/
theorem test_loader : loadS19 loopRecords = some (Memory.setAll [] 0x4000#16
    [0xCE#8, 0x10#8, 0x00#8, 0xF6#8, 0x44#8, 0x00#8, 0x86#8, 0x00#8, 0x81#8, 0x0A#8, 0x27#8, 0x06#8, 0xEB#8, 0x00#8,
     0x08#8, 0x42#8, 0x20#8, 0xF6#8, 0x7B#8, 0x44#8, 0x00#8]) := by decide +kernel

/-- BRA $0010 at $FFFE is 20 10 (T45-36): the offset is taken modulo 2^16, and both bytes are code. -/
theorem test_assembler_wrap :
    (assemble " ORG $FFFE\n BRA $0010\n").map (fun es => (es.map (·.bytes), codeRanges es)) =
      some ([[0x20#8, 0x10#8]], [⟨0xFFFE#16, 0xFFFF#16⟩]) := by decide +kernel

/-- Labels used before their line, in an operand, a count and an EQU, take the form of their value (R391, R394, R398). -/
theorem test_assembler_forward :
    (assemble " ORG S\n LDAA L\n RMB N\n LDAB N,Y\nL EQU M\nM EQU $50\nN EQU 3\nS EQU $100\n").map
        (fun es => es.map fun e => (e.addr, e.bytes)) =
      some [(0x0100#16, [0x96#8, 0x50#8]), (0x0105#16, [0xE6#8, 0x43#8])] := by decide +kernel

/-- After END an instruction is ignored with its label, a directive acts; a label twice is an error (R400; log 23). -/
theorem test_assembler_end :
    (assemble " ORG 0\nA INX\n END\nA DEX $\n FCB 7\n").map (fun es => es.map (·.bytes)) =
      some [[0x08#8], [0x07#8]] ∧ assemble " ORG 0\nA INX\nA INX\n" = none := by decide +kernel

/-- FCC gives ASCII codes (R404: `4D 49 4B 45`). Operand texts outside the forms of R394 and R398 to R404 fail. -/
theorem test_assembler_operands :
    (assemble " ORG 0\nNAME FCC \"MIKE\"\n").map (fun es => es.map (·.bytes)) =
      some [[0x4D#8, 0x49#8, 0x4B#8, 0x45#8]] ∧
    ["FCB", "FDB ", "FCC x\"A\"", "FCC \"A\"x", "FCC \"\"", "FCC \"é\"", "END 4", "LDAA [,X]",
      "LDAA #1 2", "FDB 11 12", "LDAA # 1", "LDAA 1,X +", "FCB L M"].all
      (fun t => (assemble (" ORG 0\n " ++ t ++ "\n")).isNone) = true ∧
    ["FCB 1", "FDB 1", "FCC \";\"", "END", "LDAA [0,X]", "LDAA ,X", "FCB 1 ,\t$aB",
      "LDAA [ 0 , X ]"].all
      (fun t => (assemble (" ORG 0\n " ++ t ++ "\n")).isSome) = true := by decide +kernel

/-- Lines of the source's first listing, up to the blanks between columns (R407). -/
theorem test_listing :
    (listing " ORG $4000\n LDX #$1000\n BSET A,X,%00000011\nSUM EQU $4400\n END\n").map
        (fun ls => (ls.take 5).map fun l => (l.number, l.mark.text, groupsText l.groups)) =
      some [(1, "=00004000".toList, []), (2, "4000".toList, "CE 1000".toList), (3, "4003".toList, "0C E4 03".toList),
        (4, "=00004400".toList, []), (5, [], [])] := by decide +kernel

/-- A row of the source's second listing (R408). -/
theorem test_listing_row :
    (listing "DATA ORG $6000\n FCB $80, $00 ; x\n").map (fun ls => (ls.map ListLine.row).take 2) =
      some [⟨"DATA".toList, "ORG".toList, "$6000".toList, "6000".toList, []⟩,
        ⟨[], "FCB".toList, "$80, $00".toList, "6000".toList, "80 00".toList⟩] := by decide +kernel

/-- A fetch reads the one memory (10_state.md R33; 20_memory.md R67): a program stores INCA at a byte that no record
loaded, and runs it. -/
theorem test_fetch_reads_stores :
    (match Machine.step { setUp [0x7A#8, 0x40#8, 0x03#8] [] s0 with a := 0x42#8 } with
     | .next t => answers (Machine.step t)
        { t with a := 0x43#8, pc := 0x4004#16, ccr := { t.ccr with n := false, z := false, v := false } }
     | .fault _ => false
     | .refused _ => false) = true := by decide

/-- A store into the second byte of an instruction that goes on from $FFFF at $0000 faults (R412; 20_memory.md R66). -/
theorem test_code_wraps :
    faults (exec (.staa (.ext 0x0000#16)) (setUp [0x20#8, 0x10#8] [] { s0 with pc := 0xFFFF#16 }))
      (.storeToCode 0x0000#16) = true := by decide

/-- An excluded MOV postbyte: a fetch fault of its extension bytes comes before the refusal (60_exceptions.md R426). -/
theorem test_mov_extension_order :
    faults (Machine.step (setUp [0x18#8, 0x08#8, 0xE2#8] [] s0)) (.unwritten 0x4003#16) = true ∧
    refuses (Machine.step (setUp [0x18#8, 0x08#8, 0xE2#8, 0x10#8, 0x00#8, 0x55#8] [] s0))
      [0x18#8, 0x08#8, 0xE2#8, 0x10#8, 0x00#8, 0x55#8] = true := by decide

/-- A record with a wrong checksum is no record. -/
theorem test_bad_checksum : parseRecord "S0030000FD".toList = none := by decide

/-- A printed cycle count (70_reset_and_hazards.md R460). -/
theorem test_cycles : cyclesOf (.ldx (.idx (.indD .pc))) = some 6 ∧ cyclesOf .swi = none := by decide

/-! ## Witnesses: for each statement with hypotheses, a concrete state and operands that meet them, clause by clause -/

/-- LDAA #$9C at the pc; data at $1000, at the stack pointer $2FF0, and at both ends of memory. -/
def w : State :=
  setUp [0x86#8, 0x9C#8]
    [(0x1000#16, 0xA5#8), (0x1001#16, 0x3C#8), (0x1002#16, 0x77#8), (0xFFFF#16, 0x12#8), (0x0000#16, 0x34#8),
     (0x2FF0#16, 0x40#8), (0x2FF1#16, 0x03#8)] { s0 with x := 0x1000#16 }

/-- A state whose MEMMAP is $4000 to $4FFF. -/
def narrow : State := { s0 with params := { Params.default with memMap := [⟨0x4000#16, 0x4FFF#16⟩] } }

theorem witness_DecodeOfEncode :
    Instr.wellFormed (.movb (.imm 0x9C#8) (.idx (.auto .sp .pre 8#4))) = true := by decide
theorem witness_EncodeOfDecode :
    decode [0x86#8, 0x9C#8, 0x11#8] = .instr (.ldaa (.imm 0x9C#8)) [0x11#8] ∧
    8 ≤ [0x18#8, 0x02#8, 0xE2#8, 0#8, 0#8, 0xE2#8, 0#8, 0#8].length := by decide
theorem witness_ExcludedFormsRefused : Instr.wellFormed (.jsr (.idx (.auto .sp .pre 14#4))) = false := by decide
theorem witness_PostbyteMap :
    (0xC0, BaseReg.pc) ∈ [(0x00, BaseReg.x), (0x40, .y), (0x80, .sp), (0xC0, .pc)] ∧ 15 < 16 ∧
    (0xA0, AutoReg.sp) ∈ [(0x20, AutoReg.x), (0x60, .y), (0xA0, .sp)] ∧ 7 < 8 := by decide
theorem witness_FixedSecondBytes :
    0xE4#8 ≠ 0xE5#8 ∧ 0xEC#8 ≠ 0xED#8 ∧ (0x80#8 ≠ 0x9F#8 ∧ 0x80#8 ≠ 0x81#8) ∧
    (0x01#8 ≠ 0x02#8 ∧ 0x01#8 ≠ 0x20#8) := by decide
theorem witness_StepRunsDecoded : w.over = false ∧ BytesAt w w.pc [0x86#8, 0x9C#8] ∧
    decode [0x86#8, 0x9C#8] = .instr (.ldaa (.imm 0x9C#8)) [] := ⟨rfl, ⟨rfl, rfl, trivial⟩, rfl⟩
/-- The same across $FFFF. -/
theorem witness_StepRunsDecoded_wrap :
    let s := setUp [0x86#8, 0x9C#8] [] { s0 with pc := 0xFFFF#16 }
    s.over = false ∧ BytesAt s s.pc [0x86#8, 0x9C#8] := ⟨rfl, rfl, rfl, trivial⟩
theorem witness_StepStopsAtTheFetch_fault :
    let s := setUp [0x86#8] [] s0
    s.over = false ∧ BytesAt s s.pc [0x86#8] ∧ decode [0x86#8] = .more ∧
      s.fetchByte (s.pc + BitVec.ofNat 16 [0x86#8].length) = .error (.unwritten 0x4001#16) :=
  ⟨rfl, ⟨rfl, trivial⟩, rfl, rfl⟩
theorem witness_StepStopsAtTheFetch_first :
    State.reset.over = false ∧ BytesAt State.reset State.reset.pc [] ∧ decode [] = .more ∧
      State.reset.fetchByte (State.reset.pc + 0#16) = .error (.unwritten 0x4000#16) := ⟨rfl, trivial, rfl, rfl⟩
set_option maxRecDepth 10000 in
/-- The last byte makes the refusal: the first byte, a second byte, the last byte of an excluded form (of eight bytes). -/
theorem witness_StepStopsAtTheFetch_refused :
    decode [] = .more ∧ decode [0xA7#8] = .refused ∧
    decode [0x1B#8] = .more ∧ decode [0x1B#8, 0x80#8] = .refused ∧
    decode [0x18#8, 0x02#8, 0xE2#8, 0x10#8, 0x00#8, 0xE2#8, 0x10#8] = .more ∧
    decode [0x18#8, 0x02#8, 0xE2#8, 0x10#8, 0x00#8, 0xE2#8, 0x10#8, 0x00#8] = .refused ∧
    (let s := setUp [0x1B#8, 0x80#8] [] s0
     s.over = false ∧ BytesAt s s.pc [0x1B#8] ∧
      s.fetchByte (s.pc + BitVec.ofNat 16 [0x1B#8].length) = .ok 0x80#8) :=
  ⟨rfl, rfl, rfl, rfl, rfl, rfl, rfl, ⟨rfl, trivial⟩, rfl⟩
theorem witness_OnlySwiEndsTheRun :
    (∃ t, exec .lsla w = .next t) ∧ Instr.lsla ≠ .swi ∧ { w with halted := true }.halted = true ∧
    (let s := { w with params := { w.params with haltAddrs := [w.pc] } }; s.pc ∈ s.params.haltAddrs) :=
  ⟨⟨_, rfl⟩, by decide, rfl, by decide⟩
theorem witness_StepKeepsInvariant : w.Inv ∧ ∃ t, Machine.step w = .next t :=
  ⟨⟨show Memory.wf w.mem = true by decide, show Memory.wf w.params.image = true by decide⟩, _, rfl⟩
theorem witness_StepKeepsProgram : (∃ t, Machine.step w = .next t) ∧ w.params.isCode 0x4000#16 = true ∧
    w.params.mapped 0x4000#16 = true ∧ Memory.get w.params.image 0x4000#16 = some 0x86#8 ∧
    CodeAsLaunched w ∧ w.readByte 0x1000#16 = .ok 0xA5#8 := ⟨⟨_, rfl⟩, rfl, rfl, rfl, fun _ _ => rfl, rfl⟩
theorem witness_WritersOfMaskBits : ∃ t, exec .tap w = .next t ∧
    t.ccr.h ≠ w.ccr.h ∧ t.ccr.i ≠ w.ccr.i ∧ t.ccr.s ≠ w.ccr.s := ⟨_, rfl, by decide, by decide, by decide⟩
theorem witness_ClearXStaysClear : w.params.xbitSticky = true ∧ w.ccr.x = false ∧ ∃ t, Machine.step w = .next t :=
  ⟨rfl, rfl, _, rfl⟩
theorem witness_BranchesAndFlags : isBranchInstr (.beq 0x10#8) = true ∧ (∃ t, exec (.beq 0x10#8) w = .next t) ∧
    namedFlags { w.ccr with c := true, n := false } (.beq 0x10#8) = namedFlags w.ccr (.beq 0x10#8) ∧
    { w.ccr with c := true, n := false } ≠ w.ccr := ⟨rfl, ⟨_, rfl⟩, rfl, by decide⟩
theorem witness_BigEndian :
    w.readWord 0xFFFF#16 = .ok 0x1234#16 ∧ ∃ t, w.writeWord 0xFFFF#16 0xBEEF#16 = .ok t := ⟨rfl, _, rfl⟩
theorem witness_LoadSeesTheStore :
    w.params.mapped 0xFFFF#16 = true ∧ w.params.isCode 0xFFFF#16 = false ∧
    w.params.mapped (0xFFFF#16 + 1#16) = true ∧ w.params.isCode (0xFFFF#16 + 1#16) = false ∧
    w.params.mapped (w.sp - 1#16) = true ∧ w.params.isCode (w.sp - 1#16) = false := by decide
theorem witness_AccessFaults :
    narrow.params.mapped 0x3FFF#16 = false ∧ narrow.params.mapped 0x5000#16 = false ∧
    narrow.params.mapped 0x4FFF#16 = true ∧ Memory.get narrow.mem 0x4FFF#16 = none ∧
    w.params.mapped 0x4001#16 = true ∧ w.params.isCode 0x4001#16 = true ∧
    w.params.mapped 0x4002#16 = true ∧ w.params.isCode 0x4002#16 = false ∧ w.params.isCode 0x3FFF#16 = false := by
  decide
theorem witness_IndirectAndAccumulatorForms :
    w.readWord (w.base 0x4002#16 .x + 0xEFFF#16) = .ok 0x1234#16 ∧
    w.readWord (w.base 0x4002#16 .x + 0x4000#16) = .error (.unwritten 0x5000#16) ∧
    { w with a := 0x00#8, b := 0x01#8 }.readWord (w.base 0x4002#16 .x + 0x0001#16) = .ok 0x3C77#16 ∧
    w.readWord (w.base 0x4002#16 .x + w.d) = .error (.unwritten 0x6AC3#16) := ⟨rfl, rfl, rfl, rfl⟩
theorem witness_AutoForms :
    (7#4).toNat < 8 ∧ autoAdj 7#4 = 8 ∧ 8 ≤ (8#4).toNat ∧ autoAdj 8#4 = -8 ∧ AutoReg.y ≠ AutoReg.x := by decide
theorem witness_SourceOperands :
    MemOp.ea (.ext 0xFFFF#16) 0x4003#16 w = .ok (0xFFFF#16, w) ∧ w.readByte 0xFFFF#16 = .ok 0x12#8 ∧
    w.readWord 0xFFFF#16 = .ok 0x1234#16 ∧ w.readByte 0x5000#16 = .error (.unwritten 0x5000#16) ∧
    w.readWord 0x5000#16 = .error (.unwritten 0x5000#16) ∧
    MemOp.ea (.idx (.ind16 .x 0x4000#16)) 0x4004#16 w = .error (.unwritten 0x5000#16) ∧
    RmwOp.ea (.ext 0xFFFF#16) 0x4005#16 w = .ok (0xFFFF#16, w) ∧
    RmwOp.ea (.idx (.ind16 .x 0x4000#16)) 0x4004#16 w = .error (.unwritten 0x5000#16) :=
  ⟨rfl, rfl, rfl, rfl, rfl, rfl, rfl, rfl⟩
theorem witness_NineRotatesRestore : w.readByte 0x1000#16 = .ok 0xA5#8 ∧ w.params.isCode 0x1000#16 = false :=
  ⟨rfl, rfl⟩

/-- The hypotheses of both clauses of `IsSource8`, at `w`. -/
def Source8Met (mk : Src8 → Instr) : Prop :=
  (mk (.idx (.auto .x .post 0#4))).wellFormed = true ∧
  (∃ t, Src8.read (.idx (.auto .x .post 0#4)) (w.next (mk (.idx (.auto .x .post 0#4)))) w = .ok (0xA5#8, t)) ∧
  (mk (.ext 0x5000#16)).wellFormed = true ∧
  Src8.read (.ext 0x5000#16) (w.next (mk (.ext 0x5000#16))) w = .error (.unwritten 0x5000#16)

/-- The hypotheses of both clauses of `IsSource16`, at `w`. -/
def Source16Met (mk : Src16 → Instr) : Prop :=
  (mk (.idx (.off5 .x 0#5))).wellFormed = true ∧
  Src16.read (.idx (.off5 .x 0#5)) (w.next (mk (.idx (.off5 .x 0#5)))) w = .ok (0xA53C#16, w) ∧
  (mk (.ext 0x5000#16)).wellFormed = true ∧
  Src16.read (.ext 0x5000#16) (w.next (mk (.ext 0x5000#16))) w = .error (.unwritten 0x5000#16)

theorem witness_Loads : Source8Met .ldaa ∧ Source8Met .ldab ∧ Source16Met .ldd ∧ Source16Met .ldx ∧
    Source16Met .ldy ∧ Source16Met .lds :=
  ⟨⟨rfl, ⟨_, rfl⟩, rfl, rfl⟩, ⟨rfl, ⟨_, rfl⟩, rfl, rfl⟩, ⟨rfl, rfl, rfl, rfl⟩, ⟨rfl, rfl, rfl, rfl⟩,
    ⟨rfl, rfl, rfl, rfl⟩, ⟨rfl, rfl, rfl, rfl⟩⟩
theorem witness_Additions : Source8Met .adda ∧ Source8Met .addb ∧ Source16Met .addd ∧ Source8Met .adca ∧
    Source8Met .adcb :=
  ⟨⟨rfl, ⟨_, rfl⟩, rfl, rfl⟩, ⟨rfl, ⟨_, rfl⟩, rfl, rfl⟩, ⟨rfl, rfl, rfl, rfl⟩, ⟨rfl, ⟨_, rfl⟩, rfl, rfl⟩,
    ⟨rfl, ⟨_, rfl⟩, rfl, rfl⟩⟩
theorem witness_Subtractions : Source8Met .suba ∧ Source8Met .subb ∧ Source16Met .subd ∧ Source8Met .sbca ∧
    Source8Met .sbcb :=
  ⟨⟨rfl, ⟨_, rfl⟩, rfl, rfl⟩, ⟨rfl, ⟨_, rfl⟩, rfl, rfl⟩, ⟨rfl, rfl, rfl, rfl⟩, ⟨rfl, ⟨_, rfl⟩, rfl, rfl⟩,
    ⟨rfl, ⟨_, rfl⟩, rfl, rfl⟩⟩
theorem witness_LogicOnAccumulators : Source8Met .anda ∧ Source8Met .andb ∧ Source8Met .eora ∧ Source8Met .eorb ∧
    Source8Met .oraa ∧ Source8Met .orab ∧ Source8Met .bita ∧ Source8Met .bitb :=
  ⟨⟨rfl, ⟨_, rfl⟩, rfl, rfl⟩, ⟨rfl, ⟨_, rfl⟩, rfl, rfl⟩, ⟨rfl, ⟨_, rfl⟩, rfl, rfl⟩, ⟨rfl, ⟨_, rfl⟩, rfl, rfl⟩,
    ⟨rfl, ⟨_, rfl⟩, rfl, rfl⟩, ⟨rfl, ⟨_, rfl⟩, rfl, rfl⟩, ⟨rfl, ⟨_, rfl⟩, rfl, rfl⟩, ⟨rfl, ⟨_, rfl⟩, rfl, rfl⟩⟩
theorem witness_ComparesAndTests : Source8Met .cmpa ∧ Source8Met .cmpb ∧ Source16Met .cpd ∧ Source16Met .cps ∧
    Source16Met .cpx ∧ Source16Met .cpy ∧
    RmwOp.ea (.ext 0xFFFF#16) (w.next (.tst (.ext 0xFFFF#16))) w = .ok (0xFFFF#16, w) ∧
    w.readByte 0xFFFF#16 = .ok 0x12#8 :=
  ⟨⟨rfl, ⟨_, rfl⟩, rfl, rfl⟩, ⟨rfl, ⟨_, rfl⟩, rfl, rfl⟩, ⟨rfl, rfl, rfl, rfl⟩, ⟨rfl, rfl, rfl, rfl⟩,
    ⟨rfl, rfl, rfl, rfl⟩, ⟨rfl, rfl, rfl, rfl⟩, rfl, rfl⟩

/-- Stores: a byte that can be written, one that is code, one outside MEMMAP, an address that cannot be evaluated; for
a 16-bit store the wrap at $FFFF, and a first byte before code. -/
theorem witness_Stores :
    (∃ t, MemOp.ea (.idx (.auto .x .pre 15#4)) (w.next (.staa (.idx (.auto .x .pre 15#4)))) w = .ok (0x0FFF#16, t)) ∧
    w.params.mapped 0x0FFF#16 = true ∧ w.params.isCode 0x0FFF#16 = false ∧
    MemOp.ea (.ext 0x4001#16) (w.next (.staa (.ext 0x4001#16))) w = .ok (0x4001#16, w) ∧
    w.params.mapped 0x4001#16 = true ∧ w.params.isCode 0x4001#16 = true ∧
    MemOp.ea (.dir 0x10#8) (narrow.next (.staa (.dir 0x10#8))) narrow = .ok (0x0010#16, narrow) ∧
    narrow.params.mapped 0x0010#16 = false ∧
    MemOp.ea (.idx (.ind16 .x 0x4000#16)) (w.next (.staa (.idx (.ind16 .x 0x4000#16)))) w =
      .error (.unwritten 0x5000#16) ∧
    w.params.mapped 0xFFFF#16 = true ∧ w.params.isCode 0xFFFF#16 = false ∧
    w.params.mapped (0xFFFF#16 + 1#16) = true ∧ w.params.isCode (0xFFFF#16 + 1#16) = false ∧
    w.writeByte 0x4001#16 (hiByte w.d) = .error (.storeToCode 0x4001#16) ∧
    w.params.mapped 0x3FFF#16 = true ∧ w.params.isCode 0x3FFF#16 = false ∧
    w.writeByte (0x3FFF#16 + 1#16) (loByte w.d) = .error (.storeToCode 0x4000#16) :=
  ⟨⟨_, rfl⟩, rfl, rfl, rfl, rfl, rfl, rfl, rfl, rfl, rfl, rfl, rfl, rfl, rfl, rfl, rfl, rfl⟩

/-- The hypotheses of the four clauses of `IsModify`, at `w`. -/
def ModifyMet (mk : RmwOp → Instr) : Prop :=
  (∃ t, RmwOp.ea (.idx (.auto .x .post 12#4)) (w.next (mk (.idx (.auto .x .post 12#4)))) w = .ok (0x1000#16, t)) ∧
  w.readByte 0x1000#16 = .ok 0xA5#8 ∧ w.params.isCode 0x1000#16 = false ∧
  RmwOp.ea (.ext 0x4001#16) (w.next (mk (.ext 0x4001#16))) w = .ok (0x4001#16, w) ∧
  w.readByte 0x4001#16 = .ok 0x9C#8 ∧ w.params.isCode 0x4001#16 = true ∧
  RmwOp.ea (.ext 0x5000#16) (w.next (mk (.ext 0x5000#16))) w = .ok (0x5000#16, w) ∧
  w.readByte 0x5000#16 = .error (.unwritten 0x5000#16) ∧
  RmwOp.ea (.idx (.ind16 .x 0x4000#16)) (w.next (mk (.idx (.ind16 .x 0x4000#16)))) w = .error (.unwritten 0x5000#16)

theorem pointer_unwritten (n : Word) :
    RmwOp.ea (.idx (.ind16 .x 0x4000#16)) n w = .error (.unwritten 0x5000#16) := by
  have h : w.readWord (0x1000#16 + 0x4000#16) = .error (.unwritten 0x5000#16) := rfl
  have hb : w.base n .x = 0x1000#16 := rfl
  simp only [RmwOp.ea, IdxForm.ea, hb, h]

theorem modifyMet (mk : RmwOp → Instr) : ModifyMet mk :=
  ⟨⟨_, rfl⟩, rfl, rfl, rfl, rfl, rfl, rfl, rfl, pointer_unwritten _⟩

theorem witness_MemoryShifts : ModifyMet .lsl ∧ ModifyMet .asl ∧ ModifyMet .lsr ∧ ModifyMet .asr ∧ ModifyMet .rol ∧
    ModifyMet .ror :=
  ⟨modifyMet _, modifyMet _, modifyMet _, modifyMet _, modifyMet _, modifyMet _⟩
theorem witness_RegisterShifts : Instr.asla ∈ [Instr.lsla, .asla] ∧ Instr.aslb ∈ [Instr.lslb, .aslb] ∧
    Instr.asld ∈ [Instr.lsld, .asld] := by decide
theorem witness_IncrementsDecrements : ModifyMet .dec ∧ ModifyMet .inc := ⟨modifyMet _, modifyMet _⟩
theorem witness_Complements : ModifyMet .com ∧ ModifyMet .neg := ⟨modifyMet _, modifyMet _⟩
theorem witness_FreeFlagInstructions :
    { Params.default with abxyFlags := .unchanged }.abxyFlags = .unchanged ∧
    { Params.default with incDec16Z := .source }.incDec16Z = .source ∧
    { Params.default with incDec16Z := .silicon }.incDec16Z = .silicon := by decide

theorem witness_Moves_movb :
    Instr.wellFormed (.movb (.idx (.auto .x .post 0#4)) (.idx (.auto .sp .pre 15#4))) = true ∧
    ∃ t u, MovSrc8.read (.idx (.auto .x .post 0#4))
        (w.next (.movb (.idx (.auto .x .post 0#4)) (.idx (.auto .sp .pre 15#4)))) w = .ok (0xA5#8, t) ∧
      MovDst.ea (.idx (.auto .sp .pre 15#4))
        (w.next (.movb (.idx (.auto .x .post 0#4)) (.idx (.auto .sp .pre 15#4)))) t = .ok (0x2FEF#16, u) ∧
      w.params.mapped 0x2FEF#16 = true ∧ w.params.isCode 0x2FEF#16 = false :=
  ⟨rfl, _, _, rfl, rfl, rfl, rfl⟩
theorem witness_Moves_movw :
    Instr.wellFormed (.movw (.imm 0xBEEF#16) (.ext 0xFFFF#16)) = true ∧
    MovSrc16.read (.imm 0xBEEF#16) (w.next (.movw (.imm 0xBEEF#16) (.ext 0xFFFF#16))) w = .ok (0xBEEF#16, w) ∧
    MovDst.ea (.ext 0xFFFF#16) (w.next (.movw (.imm 0xBEEF#16) (.ext 0xFFFF#16))) w = .ok (0xFFFF#16, w) ∧
    w.params.mapped 0xFFFF#16 = true ∧ w.params.isCode 0xFFFF#16 = false ∧
    w.params.mapped (0xFFFF#16 + 1#16) = true ∧ w.params.isCode (0xFFFF#16 + 1#16) = false :=
  ⟨rfl, rfl, rfl, rfl, rfl, rfl, rfl⟩
theorem witness_Moves_overlap :
    w.readWord 0x1000#16 = .ok 0xA53C#16 ∧ w.params.mapped (0x1000#16 + 2#16) = true ∧
    w.params.isCode (0x1000#16 + 1#16) = false ∧ w.params.isCode (0x1000#16 + 2#16) = false := ⟨rfl, rfl, rfl, rfl⟩
theorem witness_BitSetAndClear :
    Instr.wellFormed (.bset (.idx (.auto .x .post 0#4)) 0x3C#8) = true ∧
    Instr.wellFormed (.bclr (.idx (.auto .x .post 0#4)) 0x3C#8) = true ∧
    (∃ t, MemOp.ea (.idx (.auto .x .post 0#4)) (w.next (.bset (.idx (.auto .x .post 0#4)) 0x3C#8)) w =
      .ok (0x1000#16, t)) ∧
    (∃ t, MemOp.ea (.idx (.auto .x .post 0#4)) (w.next (.bclr (.idx (.auto .x .post 0#4)) 0x3C#8)) w =
      .ok (0x1000#16, t)) ∧
    w.readByte 0x1000#16 = .ok 0xA5#8 ∧ w.params.isCode 0x1000#16 = false := ⟨rfl, rfl, ⟨_, rfl⟩, ⟨_, rfl⟩, rfl, rfl⟩
theorem witness_BranchIfBitsSet :
    Instr.wellFormed (.brset (.dir 0x00#8) 0x34#8 0x80#8) = true ∧
    MemOp.ea (.dir 0x00#8) (w.next (.brset (.dir 0x00#8) 0x34#8 0x80#8)) w = .ok (0x0000#16, w) ∧
    w.readByte 0x0000#16 = .ok 0x34#8 := ⟨rfl, rfl, rfl⟩
theorem witness_CallAndReturn :
    (let s := { w with sp := 0x0001#16 }
     Instr.wellFormed (.jsr (.ext 0x5000#16)) = true ∧
     MemOp.ea (.ext 0x5000#16) (s.next (.jsr (.ext 0x5000#16))) s = .ok (0x5000#16, s) ∧
     s.params.mapped (s.sp - 2#16) = true ∧ s.params.isCode (s.sp - 2#16) = false ∧
     s.params.mapped (s.sp - 1#16) = true ∧ s.params.isCode (s.sp - 1#16) = false) ∧
    w.readWord w.sp = .ok 0x4003#16 ∧
    { w with sp := 0x3000#16 }.readWord 0x3000#16 = .error (.unwritten 0x3000#16) :=
  ⟨⟨rfl, rfl, rfl, rfl, rfl, rfl⟩, rfl, rfl⟩
theorem witness_ReturnUndoesCall : ∃ t, exec (.jsr (.ext 0x5000#16)) w = .next t := ⟨_, rfl⟩
theorem witness_BitsSetThenTested :
    (MemOp.ext 0x1000#16).form.bind IdxForm.stepped = none ∧
    (∃ t, exec (.bset (.ext 0x1000#16) 0x3C#8) w = .next t) ∧
    (∃ t, exec (.bclr (.ext 0x1000#16) 0x3C#8) w = .next t) ∧ 0x3C#8 ≠ 0#8 := ⟨rfl, ⟨_, rfl⟩, ⟨_, rfl⟩, by decide⟩
set_option maxRecDepth 10000 in
theorem witness_LoadRecords :
    (⟨.data, 0xFFFF#16, List.replicate 252 0x55#8⟩ : Record).data.length ≤ 252 ∧
    (⟨.data, 0xFFFF#16, [0xAA#8, 0xBB#8]⟩ : Record).data[1]? = some 0xBB#8 ∧
    (∀ k < (⟨.data, 0xFFFF#16, [0xAA#8, 0xBB#8]⟩ : Record).data.length, 0x0001#16 ≠ 0xFFFF#16 + BitVec.ofNat 16 k) ∧
    (⟨.header, 0x0000#16, []⟩ : Record).kind ≠ .data := by decide

end Sys2Proof.Tests
end

section
/-! The byte order of 16-bit values (20_memory.md R53): `join` as arithmetic, what a 16-bit write leaves to be read,
and the 16-bit field of an instruction. -/

namespace Sys2Proof.Machine

open Sys2Proof

theorem toNat_join (hi lo : Byte) : (join hi lo).toNat = 256 * hi.toNat + lo.toNat := by
  have hlo : lo.toNat < 2 ^ 8 := lo.isLt
  rw [join, BitVec.toNat_append, ← Nat.shiftLeft_add_eq_or_of_lt hlo, Nat.shiftLeft_eq]
  omega

theorem eq_join_iff_toNat (v : Word) (hi lo : Byte) :
    v = join hi lo ↔ v.toNat = 256 * hi.toNat + lo.toNat := by
  rw [← toNat_join, BitVec.toNat_inj]

theorem word_cons_cons (k : Word → Reader) (hi lo : Byte) (rest : List Byte) :
    word k (hi :: lo :: rest) = k (join hi lo) rest := rfl

/-- The two bytes of a word lie at different addresses, also where `a + 1` wraps to $0000 (20_memory.md R51). -/
theorem ne_add_one (a : Word) : a ≠ a + 1#16 := by bv_omega

/-- After a 16-bit write the high byte is read at its address: the write of the low byte does not reach it. -/
theorem State.readByte_writeWord_high {s t : State} {a v : Word} (h : s.writeWord a v = .ok t) :
    t.readByte a = .ok (hiByte v) := by
  obtain ⟨mapped_hi, -, -, -, rfl⟩ := (State.writeWord_ok s t a v).1 h
  refine (State.readByte_ok _ a _).2 ⟨mapped_hi, ?_⟩
  rw [State.setMem_mem, Memory.get_set_other _ _ _ _ (ne_add_one a), Memory.get_set_same]

/-- After a 16-bit write the low byte is read at the next address. -/
theorem State.readByte_writeWord_low {s t : State} {a v : Word} (h : s.writeWord a v = .ok t) :
    t.readByte (a + 1#16) = .ok (loByte v) := by
  obtain ⟨-, -, mapped_lo, -, rfl⟩ := (State.writeWord_ok s t a v).1 h
  refine (State.readByte_ok _ (a + 1#16) _).2 ⟨mapped_lo, ?_⟩
  rw [State.setMem_mem, Memory.get_set_same]

/-- Settles O20: reads, writes and instruction fields all go through `join`, which is `256 * hi + lo`. -/
theorem bigEndian : Obligations.BigEndian := by
  refine ⟨fun s a v => ?read, fun s t a v hw => ?write, fun hi lo rest k => ?field⟩
  case read => simp only [State.readWord_ok, eq_join_iff_toNat]
  case write =>
    have split_v : v.toNat = 256 * (hiByte v).toNat + (loByte v).toNat :=
      (eq_join_iff_toNat v _ _).1 (join_hi_lo v).symm
    exact ⟨hiByte v, loByte v, split_v, State.readByte_writeWord_high hw, State.readByte_writeWord_low hw⟩
  case field => exact ⟨join hi lo, toNat_join hi lo, word_cons_cons k hi lo rest⟩

end Sys2Proof.Machine
end

section
/-! Effective addresses and source operands (30_encoding.md R86 to R111): an address changes nothing but the base
register of an auto form, so a read at it sees the memory of the state before. -/

namespace Sys2Proof.Machine

open Sys2Proof

/-! ### Direct addresses and taken branches -/

theorem directEa_eq_ofNat (dd : Byte) : directEa dd = BitVec.ofNat 16 dd.toNat := by
  apply BitVec.eq_of_toNat_eq
  simp only [directEa, toNat_join, BitVec.toNat_ofNat]
  have dd_lt : dd.toNat < 2 ^ 8 := dd.isLt
  omega

theorem shortOffset_eq_ofInt (rel : Byte) : shortOffset rel = BitVec.ofInt 16 rel.toInt := rfl

theorem branch_taken (i : Instr) (offset : Word) (s : State) :
    branch i true offset s = .next { s with pc := s.pc + BitVec.ofNat 16 i.length + offset } := rfl

theorem length_bra (rel : Byte) : (Instr.bra rel).length = 2 := rfl

theorem length_lbra (rel : Word) : (Instr.lbra rel).length = 4 := rfl

theorem exec_bra (rel : Byte) (s : State) : exec (.bra rel) s = branch (.bra rel) true (shortOffset rel) s := rfl

theorem exec_lbra (rel : Word) (s : State) : exec (.lbra rel) s = branch (.lbra rel) true rel s := rfl

/-- Settles O23: the direct address is `join` with a zero high byte, and both branches are taken. -/
theorem directExtendedRelative : Obligations.DirectExtendedRelative := by
  refine fun s next => ⟨fun dd => ?direct, fun hl => ⟨rfl, rfl⟩, fun rr => ?short, fun qr => ?long⟩
  case direct => rw [MemOp.ea, directEa_eq_ofNat]
  case short => rw [exec_bra, branch_taken, length_bra, shortOffset_eq_ofInt]
  case long => rw [exec_lbra, branch_taken, length_lbra]

/-! ### Reads at an effective address -/

theorem Stepped.mem_eq {s t : State} (h : Stepped s t) : t.mem = s.mem := by
  obtain ⟨-, -, -, -, mem_eq, -⟩ := h.keeps
  exact mem_eq

theorem Stepped.readByte_eq {s t : State} (h : Stepped s t) (a : Word) : t.readByte a = s.readByte a := by
  obtain ⟨-, -, -, -, mem_eq, params_eq, -, -⟩ := h.keeps
  rw [State.readByte, State.readByte, mem_eq, params_eq]

theorem Stepped.readWord_eq {s t : State} (h : Stepped s t) (a : Word) : t.readWord a = s.readWord a := by
  rw [State.readWord, State.readWord, h.readByte_eq, h.readByte_eq]

/-- A byte read through an evaluated address succeeds or faults as the read in the state before does. -/
theorem read8At_of_ea {r : Except Fault (Word × State)} {ea : Word} {s t : State} (hr : r = .ok (ea, t))
    (hs : Stepped s t) : (∀ v, s.readByte ea = .ok v → read8At r = .ok (v, t)) ∧
      (∀ e, s.readByte ea = .error e → read8At r = .error e) := by
  subst hr
  constructor <;> intro _ h <;> simp only [read8At, hs.readByte_eq, h]

/-- A 16-bit read through an evaluated address succeeds or faults as the read in the state before does. -/
theorem read16At_of_ea {r : Except Fault (Word × State)} {ea : Word} {s t : State} (hr : r = .ok (ea, t))
    (hs : Stepped s t) : (∀ v, s.readWord ea = .ok v → read16At r = .ok (v, t)) ∧
      (∀ e, s.readWord ea = .error e → read16At r = .error e) := by
  subst hr
  constructor <;> intro _ h <;> simp only [read16At, hs.readWord_eq, h]

theorem read8At_of_ea_error {r : Except Fault (Word × State)} {e : Fault} (hr : r = .error e) :
    read8At r = .error e := by rw [hr, read8At]

theorem read16At_of_ea_error {r : Except Fault (Word × State)} {e : Fault} (hr : r = .error e) :
    read16At r = .error e := by rw [hr, read16At]

/-! ### Indirect and accumulator forms -/

/-- The pointer of an indirect form is itself a 16-bit operand at a constant offset (30_encoding.md R104). -/
theorem IdxForm.ea_ind16 (r : BaseReg) (n next : Word) (s : State) :
    IdxForm.ea (.ind16 r n) next s = read16At (.ok (s.base next r + n, s)) := rfl

theorem IdxForm.ea_indD (r : BaseReg) (next : Word) (s : State) :
    IdxForm.ea (.indD r) next s = read16At (.ok (s.base next r + s.d, s)) := rfl

theorem IdxForm.ea_acc (r : BaseReg) (o : AccOffset) (next : Word) (s : State) :
    IdxForm.ea (.acc r o) next s = .ok (s.base next r + s.accOffset o, s) := rfl

theorem State.accOffset_a (s : State) : s.accOffset .a = BitVec.ofNat 16 s.a.toNat :=
  (BitVec.ofNat_toNat 16 s.a).symm

theorem State.accOffset_b (s : State) : s.accOffset .b = BitVec.ofNat 16 s.b.toNat :=
  (BitVec.ofNat_toNat 16 s.b).symm

theorem State.accOffset_d (s : State) : s.accOffset .d = s.d := rfl

/-- Settles O25: an indirect form is a 16-bit read at its sum, an accumulator form a sum. -/
theorem indirectAndAccumulatorForms : Obligations.IndirectAndAccumulatorForms := by
  refine fun s next r => ⟨fun n => ⟨rfl, ?ind16⟩, rfl, ?indD_ok, ?indD_error, fun o => rfl, ?accA, ?accB, ?accD⟩
  case ind16 => exact IdxForm.ea_ind16 r n next s ▸ read16At_of_ea rfl (.inl rfl)
  case indD_ok => exact IdxForm.ea_indD r next s ▸ (read16At_of_ea rfl (.inl rfl)).1
  case indD_error => exact IdxForm.ea_indD r next s ▸ (read16At_of_ea rfl (.inl rfl)).2
  case accA => rw [IdxForm.ea_acc, State.accOffset_a]
  case accB => rw [IdxForm.ea_acc, State.accOffset_b]
  case accD => rw [IdxForm.ea_acc, State.accOffset_d]

/-! ### The state after an effective address -/

theorem eq_of_read16At_ok {a p : Word} {s t : State} (h : read16At (.ok (a, s)) = .ok (p, t)) : t = s := by
  obtain ⟨_, same, -⟩ := (read16At_ok _ p t).1 h
  cases same; rfl

/-- The form alone says which register an address steps, and by how much (30_encoding.md R105). -/
theorem IdxForm.eq_stepOf_of_ea {f : IdxForm} {next ea : Word} {s t : State}
    (h : IdxForm.ea f next s = .ok (ea, t)) : t = stepOf (some f) s := by
  cases f with
  | off5 | off9 | off16 | acc => cases h; rfl
  | auto r m n => cases m <;> (cases h; rfl)
  | ind16 r n =>
    rw [IdxForm.ea_ind16] at h
    exact eq_of_read16At_ok h
  | indD r =>
    rw [IdxForm.ea_indD] at h
    exact eq_of_read16At_ok h

theorem MemOp.eq_stepOf_of_ea {op : MemOp} {next ea : Word} {s t : State} (h : MemOp.ea op next s = .ok (ea, t)) :
    t = stepOf op.form s := by
  cases op with
  | dir | ext => cases h; rfl
  | idx f => exact IdxForm.eq_stepOf_of_ea h

theorem RmwOp.eq_stepOf_of_ea {op : RmwOp} {next ea : Word} {s t : State} (h : RmwOp.ea op next s = .ok (ea, t)) :
    t = stepOf op.form s := by
  cases op with
  | ext => cases h; rfl
  | idx f => exact IdxForm.eq_stepOf_of_ea h

/-! ### Source operands -/

theorem RmwOp.read_eq (op : RmwOp) (next : Word) (s : State) :
    RmwOp.read op next s = read8At (RmwOp.ea op next s) := rfl

/-- Settles O27: every memory operand is one read at its effective address, in a state that differs from the one
before by the step of an auto form at most. -/
theorem sourceOperands : Obligations.SourceOperands := by
  refine fun s next => ⟨fun f => ⟨rfl, rfl, rfl⟩, fun hl => rfl, fun v => rfl, fun v => rfl,
    fun op src src' hsrc hsrc' => ?noDirect, fun v => rfl, fun v => rfl, fun op src src' hsrc hsrc' => ?withDirect⟩
  case noDirect =>
    have read8 : MovSrc8.read src next s = read8At (RmwOp.ea op next s) := by subst hsrc; cases op <;> rfl
    have read16 : MovSrc16.read src' next s = read16At (RmwOp.ea op next s) := by subst hsrc'; cases op <;> rfl
    rw [RmwOp.read_eq, read8, read16]
    refine ⟨fun ea t hea => ?_, fun e fault =>
      ⟨read8At_of_ea_error fault, read8At_of_ea_error fault, read16At_of_ea_error fault⟩⟩
    have stepped : Stepped s t := RmwOp.ea_stepped op next s ea t hea
    obtain ⟨ok8, error8⟩ := read8At_of_ea hea stepped
    obtain ⟨ok16, error16⟩ := read16At_of_ea hea stepped
    exact ⟨RmwOp.eq_stepOf_of_ea hea, stepped.mem_eq, fun v h => ⟨ok8 v h, ok8 v h⟩,
      fun e h => ⟨error8 e h, error8 e h⟩, ok16, error16⟩
  case withDirect =>
    have read8 : Src8.read src next s = read8At (MemOp.ea op next s) := by subst hsrc; cases op <;> rfl
    have read16 : Src16.read src' next s = read16At (MemOp.ea op next s) := by subst hsrc'; cases op <;> rfl
    rw [read8, read16]
    refine ⟨fun ea t hea => ?_, fun e fault => ⟨read8At_of_ea_error fault, read16At_of_ea_error fault⟩⟩
    have stepped : Stepped s t := MemOp.ea_stepped op next s ea t hea
    obtain ⟨ok8, error8⟩ := read8At_of_ea hea stepped
    obtain ⟨ok16, error16⟩ := read16At_of_ea hea stepped
    exact ⟨MemOp.eq_stepOf_of_ea hea, stepped.mem_eq, ok8, error8, ok16, error16⟩

end Sys2Proof.Machine
end

section
/-! The flags of the branches (45_branch.md R359): the condition of a branch is a function of the flags it names, and
the byte that BRSET tests is read without looking at a flag. -/

namespace Sys2Proof.Machine

open Sys2Proof

/-! ### Operands under another CCR -/

theorem State.readByte_setCcr (s : State) (g : Ccr) (a : Word) : (s.setCcr g).readByte a = s.readByte a := rfl

theorem State.readWord_setCcr (s : State) (g : Ccr) (a : Word) : (s.setCcr g).readWord a = s.readWord a := rfl

theorem State.base_setCcr (s : State) (g : Ccr) (next : Word) (r : BaseReg) :
    (s.setCcr g).base next r = s.base next r := by cases r <;> rfl

theorem read8At_setCcr {r r' : Except Fault (Word × State)} {m : Byte} {t : State} (g : Ccr)
    (hr : ∀ ea, r = .ok (ea, t) → r' = .ok (ea, t.setCcr g)) (h : read8At r = .ok (m, t)) :
    read8At r' = .ok (m, t.setCcr g) := by
  obtain ⟨ea, hea, byte_read⟩ := (read8At_ok r m t).1 h
  exact (read8At_ok r' m _).2 ⟨ea, hr ea hea, (State.readByte_setCcr t g ea).trans byte_read⟩

theorem read16At_setCcr {s t : State} {a v : Word} (g : Ccr) (h : read16At (.ok (a, s)) = .ok (v, t)) :
    read16At (.ok (a, s.setCcr g)) = .ok (v, t.setCcr g) := by
  obtain ⟨_, same, word_read⟩ := (read16At_ok _ v t).1 h
  cases same
  exact (read16At_ok _ v _).2 ⟨a, rfl, (State.readWord_setCcr s g a).trans word_read⟩

/-- No addressing form reads or writes a flag. -/
theorem IdxForm.ea_setCcr {f : IdxForm} {next ea : Word} {s t : State} (g : Ccr)
    (h : IdxForm.ea f next s = .ok (ea, t)) : IdxForm.ea f next (s.setCcr g) = .ok (ea, t.setCcr g) := by
  cases f with
  | off5 r n | off9 r n | off16 r n | acc r n => cases h; cases r <;> rfl
  | auto r m n => cases m <;> cases h <;> cases r <;> rfl
  | ind16 r n =>
    rw [IdxForm.ea_ind16] at h ⊢
    rw [State.base_setCcr]
    exact read16At_setCcr g h
  | indD r =>
    rw [IdxForm.ea_indD] at h ⊢
    rw [State.base_setCcr]
    exact read16At_setCcr g h

theorem MemOp.ea_setCcr {op : MemOp} {next ea : Word} {s t : State} (g : Ccr)
    (h : MemOp.ea op next s = .ok (ea, t)) : MemOp.ea op next (s.setCcr g) = .ok (ea, t.setCcr g) := by
  cases op with
  | dir | ext => cases h; rfl
  | idx f => exact IdxForm.ea_setCcr g h

/-! ### The outcome of a branch -/

theorem branch_ccr {i : Instr} {taken : Bool} {offset : Word} {s t : State} (h : branch i taken offset s = .next t) :
    t.ccr = s.ccr := by
  rw [(branch_next i taken offset s t).1 h, State.setPc_ccr]

theorem branch_setCcr {i : Instr} {taken : Bool} {offset : Word} {s t : State} (g : Ccr)
    (h : branch i taken offset s = .next t) : branch i taken offset (s.setCcr g) = .next (t.setCcr g) := by
  cases h; rfl

/-- What `BranchesAndFlags` says of one instruction: no flag is written, and only the named flags are read. -/
def OnlyNamedFlags (i : Instr) : Prop :=
  ∀ s t : State, exec i s = .next t →
    t.ccr = s.ccr ∧ ∀ g : Ccr, namedFlags g i = namedFlags s.ccr i → exec i (s.setCcr g) = .next (t.setCcr g)

/-- A branch whose condition can be computed from the flags it names reads no other. -/
theorem OnlyNamedFlags.of_branch {i : Instr} {offset : Word} (taken : List Bool → Bool)
    (exec_eq : ∀ s, exec i s = branch i (taken (namedFlags s.ccr i)) offset s) : OnlyNamedFlags i := by
  intro s t h
  rw [exec_eq] at h
  refine ⟨branch_ccr h, fun g agree => ?_⟩
  rw [exec_eq, State.setCcr_ccr, agree]
  exact branch_setCcr g h

theorem exec_brset_next (op : MemOp) (mask rel : Byte) (s t : State) :
    exec (.brset op mask rel) s = .next t ↔ (Instr.brset op mask rel).wellFormed = true ∧ ∃ m u,
      read8At (MemOp.ea op (s.next (.brset op mask rel)) s) = .ok (m, u) ∧
      branch (.brset op mask rel) (decide (~~~m &&& mask = 0x00#8)) (shortOffset rel) u = .next t := by
  change execBrset op mask rel s = .next t ↔ _
  rw [execBrset, admitted_next, orFault_next, Prod.exists]

/-- BRSET names no flag: its condition is about the byte it reads. -/
theorem onlyNamedFlags_brset (op : MemOp) (mask rel : Byte) : OnlyNamedFlags (.brset op mask rel) := by
  intro s t h
  obtain ⟨wf, m, u, byte_read, branched⟩ := (exec_brset_next op mask rel s t).1 h
  refine ⟨?ccr, fun g _ =>
    (exec_brset_next op mask rel _ _).2 ⟨wf, m, u.setCcr g, ?read, branch_setCcr g branched⟩⟩
  case ccr =>
    obtain ⟨ea, hea, -⟩ := (read8At_ok _ m u).1 byte_read
    obtain ⟨-, -, -, ccr_eq, -⟩ := (MemOp.ea_stepped op _ s ea u hea).keeps
    rw [branch_ccr branched, ccr_eq]
  case read => exact read8At_setCcr g (fun _ => MemOp.ea_setCcr g) byte_read

/-- Each condition as a function of the flags it names, in the order of `namedFlags` (45_branch.md R321 to R358). -/
theorem onlyNamedFlags_of_isBranchInstr {i : Instr} (hi : isBranchInstr i = true) : OnlyNamedFlags i := by
  cases i with
  | brn | lbrn => exact .of_branch (fun _ => false) fun _ => rfl
  | bra | lbra => exact .of_branch (fun _ => true) fun _ => rfl
  | bcc | bhs | lbcc | lbhs | bne | lbne | bpl | lbpl | bvc | lbvc => exact .of_branch (fun l => !l.headI) fun _ => rfl
  | bcs | blo | lbcs | lblo | beq | lbeq | bmi | lbmi | bvs | lbvs => exact .of_branch List.headI fun _ => rfl
  | bhi | lbhi => exact .of_branch (fun | [c, z] => !(c || z) | _ => false) fun _ => rfl
  | bls | lbls => exact .of_branch (fun | [c, z] => c || z | _ => false) fun _ => rfl
  | bge | lbge => exact .of_branch (fun | [n, v] => !(n ^^ v) | _ => false) fun _ => rfl
  | blt | lblt => exact .of_branch (fun | [n, v] => n ^^ v | _ => false) fun _ => rfl
  | bgt | lbgt => exact .of_branch (fun | [z, n, v] => !(z || (n ^^ v)) | _ => false) fun _ => rfl
  | ble | lble => exact .of_branch (fun | [z, n, v] => z || (n ^^ v) | _ => false) fun _ => rfl
  | brset op mask rel => exact onlyNamedFlags_brset op mask rel
  | _ => cases hi

/-- Settles O19: no branch writes a flag, and its condition is a function of the flags it names. -/
theorem branchesAndFlags : Obligations.BranchesAndFlags := fun _ s t hi h =>
  onlyNamedFlags_of_isBranchInstr hi s t h

end Sys2Proof.Machine
end

section
/-! The indexed postbyte (30_encoding.md R100 to R113): which form a postbyte selects, and that a form's bytes are
read back as that form. -/

namespace Sys2Proof

/-! ### The fields of a postbyte -/

theorem IdxForm.ofPostbyte_bytes : ∀ xb : Byte, ∀ f ∈ IdxForm.ofPostbyte xb, f.bytes = [xb] := by decide

/-- A postbyte that takes extension bytes starts with 111 and has bit 2 clear (R102 to R104). -/
theorem postbyte_of_ofPostbyte_none : ∀ xb : Byte, IdxForm.ofPostbyte xb = none →
    (∃ e : BitVec 1, xb = 7#3 ++ (BaseReg.ofBits (xb.extractLsb' 3 2)).bits ++ 0#2 ++ e) ∨
    xb = 7#3 ++ (BaseReg.ofBits (xb.extractLsb' 3 2)).bits ++ 2#3 ∨
    xb = 7#3 ++ (BaseReg.ofBits (xb.extractLsb' 3 2)).bits ++ 3#3 := by
  decide

theorem ofPostbyte_off5 : ∀ (r : BaseReg) (n : BitVec 5), IdxForm.ofPostbyte (r.bits ++ 0#1 ++ n) = some (.off5 r n) := by
  intro r; cases r <;> decide

theorem ofPostbyte_auto (r : AutoReg) (m : AutoMode) :
    ∀ n : BitVec 4, IdxForm.ofPostbyte (r.bits ++ 1#1 ++ m.bits ++ n) = some (.auto r m n) := by
  cases r <;> cases m <;> decide

theorem ofPostbyte_acc (r : BaseReg) (o : AccOffset) :
    IdxForm.ofPostbyte (7#3 ++ r.bits ++ 1#1 ++ o.bits) = some (.acc r o) := by
  cases r <;> cases o <;> rfl

theorem ofPostbyte_indD (r : BaseReg) : IdxForm.ofPostbyte (7#3 ++ r.bits ++ 7#3) = some (.indD r) := by
  cases r <;> rfl

/-- The 9-bit offset is its sign bit, from the postbyte, and its low byte (R102). -/
theorem append_extract_off9 (n : BitVec 9) : n.extractLsb' 8 1 ++ n.extractLsb' 0 8 = n := by
  rw [BitVec.extractLsb'_append_extractLsb'_eq_extractLsb' (by omega)]
  exact BitVec.extractLsb'_eq_self

theorem extract_append_high (e : BitVec 1) (ee : Byte) : (e ++ ee).extractLsb' 8 1 = e := by
  rw [BitVec.extractLsb'_append_eq_left]

theorem extract_append_low (e : BitVec 1) (ee : Byte) : (e ++ ee).extractLsb' 0 8 = ee := by
  rw [BitVec.extractLsb'_append_eq_right]

/-! ### Reading a form -/

theorem idx_of_ofPostbyte {xb : Byte} {f : IdxForm} (h : IdxForm.ofPostbyte xb = some f) (k : IdxForm → Reader)
    (bs : List Byte) : idx k (xb :: bs) = k f bs := by
  simp only [idx, byte, h]

theorem idx_off9 (r : BaseReg) (k : IdxForm → Reader) (bs : List Byte) : ∀ e : BitVec 1,
    idx k ((7#3 ++ r.bits ++ 0#2 ++ e) :: bs) = byte (fun ee => k (.off9 r (e ++ ee))) bs := by
  intro e
  obtain rfl | rfl : e = 0#1 ∨ e = 1#1 := by revert e; decide
  all_goals cases r <;> rfl

theorem idx_off16 (r : BaseReg) (k : IdxForm → Reader) (bs : List Byte) :
    idx k ((7#3 ++ r.bits ++ 2#3) :: bs) = word (fun n => k (.off16 r n)) bs := by
  cases r <;> rfl

theorem idx_ind16 (r : BaseReg) (k : IdxForm → Reader) (bs : List Byte) :
    idx k ((7#3 ++ r.bits ++ 3#3) :: bs) = word (fun n => k (.ind16 r n)) bs := by
  cases r <;> rfl

theorem word_hi_lo (k : Word → Reader) (w : Word) (rest : List Byte) :
    word k (hiByte w :: loByte w :: rest) = k w rest := by
  rw [Machine.word_cons_cons, Machine.join_hi_lo]

/-- The bytes of an indexed form are read as that form, whatever follows. -/
theorem idx_bytes (k : IdxForm → Reader) (f : IdxForm) (rest : List Byte) : idx k (f.bytes ++ rest) = k f rest := by
  cases f with
  | off5 r n => exact idx_of_ofPostbyte (ofPostbyte_off5 r n) k rest
  | off9 r n => exact (idx_off9 r k _ _).trans (congrArg (fun m => k (.off9 r m) rest) (append_extract_off9 n))
  | off16 r n => exact (idx_off16 r k _).trans (word_hi_lo _ n rest)
  | ind16 r n => exact (idx_ind16 r k _).trans (word_hi_lo _ n rest)
  | auto r m n => exact idx_of_ofPostbyte (ofPostbyte_auto r m n) k rest
  | acc r o => exact idx_of_ofPostbyte (ofPostbyte_acc r o) k rest
  | indD r => exact idx_of_ofPostbyte (ofPostbyte_indD r) k rest

/-- What a postbyte does to the rest: it is a whole form, or one more byte or one more word completes it. -/
theorem idx_cons_cases (xb : Byte) :
    (∃ f : IdxForm, f.bytes = [xb] ∧ ∀ k bs, idx k (xb :: bs) = k f bs) ∨
    (∃ mk : Byte → IdxForm, (∀ ee, (mk ee).bytes = [xb, ee]) ∧
      ∀ k bs, idx k (xb :: bs) = byte (fun ee => k (mk ee)) bs) ∨
    (∃ mk : Word → IdxForm, (∀ n, (mk n).bytes = [xb, hiByte n, loByte n]) ∧
      ∀ k bs, idx k (xb :: bs) = word (fun n => k (mk n)) bs) := by
  cases h : IdxForm.ofPostbyte xb with
  | some f => exact .inl ⟨f, IdxForm.ofPostbyte_bytes xb f h, idx_of_ofPostbyte h⟩
  | none =>
    have fields := postbyte_of_ofPostbyte_none xb h
    generalize BaseReg.ofBits (xb.extractLsb' 3 2) = r at fields
    rcases fields with ⟨e, rfl⟩ | rfl | rfl
    · refine .inr (.inl ⟨fun ee => .off9 r (e ++ ee), fun ee => ?_, fun k bs => idx_off9 r k bs e⟩)
      rw [IdxForm.bytes, extract_append_high, extract_append_low]
    · exact .inr (.inr ⟨.off16 r, fun _ => rfl, fun k bs => idx_off16 r k bs⟩)
    · exact .inr (.inr ⟨.ind16 r, fun _ => rfl, fun k bs => idx_ind16 r k bs⟩)

theorem extBytes_of_length {f : IdxForm} {n : Nat} (h : f.bytes.length = 1 + n) : f.extBytes = n :=
  Nat.add_left_cancel ((Laws.EncodedLength.idx_len f).symm.trans h)

theorem exists_form_of_postbyte (xb ee ff : Byte) (rest : List Byte) :
    ∃ f : IdxForm, (∀ k : IdxForm → Reader, idx k (xb :: ee :: ff :: rest) = k f ((ee :: ff :: rest).drop f.extBytes)) ∧
      f.bytes = xb :: [ee, ff].take f.extBytes := by
  obtain ⟨f, bytes_eq, idx_eq⟩ | ⟨mk, bytes_eq, idx_eq⟩ | ⟨mk, bytes_eq, idx_eq⟩ := idx_cons_cases xb
  · have ext : f.extBytes = 0 := extBytes_of_length (by rw [bytes_eq]; rfl)
    exact ⟨f, fun k => by rw [idx_eq, ext]; rfl, by rw [bytes_eq, ext]; rfl⟩
  · have ext : (mk ee).extBytes = 1 := extBytes_of_length (by rw [bytes_eq]; rfl)
    exact ⟨mk ee, fun k => by rw [idx_eq, ext]; rfl, by rw [bytes_eq, ext]; rfl⟩
  · have ext : (mk (join ee ff)).extBytes = 2 := extBytes_of_length (by rw [bytes_eq]; rfl)
    refine ⟨mk (join ee ff), fun k => by rw [idx_eq, ext]; rfl, ?_⟩
    rw [bytes_eq, ext, Machine.hiByte_join, Machine.loByte_join]; rfl

/-- Settles O5: a second form read from the same bytes would be handed to the same continuation. -/
theorem postbyteTotal : Obligations.PostbyteTotal := by
  intro xb ee ff rest
  obtain ⟨f, read_f, bytes_f⟩ := exists_form_of_postbyte xb ee ff rest
  refine ⟨f, ⟨read_f, bytes_f⟩, fun g ⟨read_g, _⟩ => ?_⟩
  have same := (read_g fun h _ => .instr (.ldaa (.idx h)) []).symm.trans (read_f _)
  cases same; rfl

/-- Settles O6, row by row of the map. -/
theorem postbyteMap : Obligations.PostbyteMap := by
  refine ⟨?off5, ?auto, ?extended, ?signed⟩
  case off5 => decide
  case auto => decide
  case extended =>
    intro p hp
    simp only [List.mem_cons, List.not_mem_nil, or_false] at hp
    rcases hp with rfl | rfl | rfl | rfl
    all_goals exact ⟨fun _ _ _ => ⟨rfl, rfl⟩, fun _ _ _ _ => ⟨rfl, rfl⟩, rfl, rfl, rfl, rfl⟩
  case signed => decide

end Sys2Proof
end

section
/-! Decoding what the encoder wrote (30_encoding.md R82, R121 to R124, R131): the bytes of every instruction, excluded
forms too, are read to their end, and only then is the form admitted or refused. -/

namespace Sys2Proof

open Machine (State exec admitted)

/-! ### Reading the bytes of one instruction -/

/-- Decoding these bytes comes to the end of instruction `i`, with whatever follows them left to read. -/
def ReadsAs (bytes : List Byte) (i : Instr) : Prop := ∀ rest, decode (bytes ++ rest) = done i rest

theorem idx_bytes_append (k : IdxForm → Reader) (f : IdxForm) (bs rest : List Byte) :
    idx k ((f.bytes ++ bs) ++ rest) = k f (bs ++ rest) := by
  rw [List.append_assoc, idx_bytes]

section families

variable {imm dir ext ix : Byte}

theorem readsAs_src8 {mk : Src8 → Instr}
    (himm : ∀ bs, decode (imm :: bs) = byte (fun v => done (mk (.imm v))) bs)
    (hdir : ∀ bs, decode (dir :: bs) = byte (fun d => done (mk (.dir d))) bs)
    (hext : ∀ bs, decode (ext :: bs) = word (fun a => done (mk (.ext a))) bs)
    (hidx : ∀ bs, decode (ix :: bs) = idx (fun f => done (mk (.idx f))) bs) (src : Src8) :
    ReadsAs (src.bytes imm dir ext ix) (mk src) := by
  intro rest
  cases src with
  | imm v => exact himm _
  | dir d => exact hdir _
  | ext a => exact (hext _).trans (word_hi_lo _ a rest)
  | idx f => exact (hidx _).trans (idx_bytes _ f rest)

theorem readsAs_src16 {mk : Src16 → Instr}
    (himm : ∀ bs, decode (imm :: bs) = word (fun v => done (mk (.imm v))) bs)
    (hdir : ∀ bs, decode (dir :: bs) = byte (fun d => done (mk (.dir d))) bs)
    (hext : ∀ bs, decode (ext :: bs) = word (fun a => done (mk (.ext a))) bs)
    (hidx : ∀ bs, decode (ix :: bs) = idx (fun f => done (mk (.idx f))) bs) (src : Src16) :
    ReadsAs (src.bytes imm dir ext ix) (mk src) := by
  intro rest
  cases src with
  | imm v => exact (himm _).trans (word_hi_lo _ v rest)
  | dir d => exact hdir _
  | ext a => exact (hext _).trans (word_hi_lo _ a rest)
  | idx f => exact (hidx _).trans (idx_bytes _ f rest)

theorem readsAs_rmw {mk : RmwOp → Instr}
    (hext : ∀ bs, decode (ext :: bs) = word (fun a => done (mk (.ext a))) bs)
    (hidx : ∀ bs, decode (ix :: bs) = idx (fun f => done (mk (.idx f))) bs) (op : RmwOp) :
    ReadsAs (op.bytes ext ix) (mk op) := by
  intro rest
  cases op with
  | ext a => exact (hext _).trans (word_hi_lo _ a rest)
  | idx f => exact (hidx _).trans (idx_bytes _ f rest)

/-- A memory operand, and the `tail` of mask and offset bytes that `k` reads after it. -/
theorem readsAs_mem {mk : MemOp → Instr} {k : MemOp → Reader} (tail : List Byte)
    (hdir : ∀ bs, decode (dir :: bs) = byte (fun d => k (.dir d)) bs)
    (hext : ∀ bs, decode (ext :: bs) = word (fun a => k (.ext a)) bs)
    (hidx : ∀ bs, decode (ix :: bs) = idx (fun f => k (.idx f)) bs)
    (htail : ∀ op rest, k op (tail ++ rest) = done (mk op) rest) (op : MemOp) :
    ReadsAs (op.bytes dir ext ix ++ tail) (mk op) := by
  intro rest
  rw [List.append_assoc, ← htail]
  cases op with
  | dir d => exact hdir _
  | ext a => exact (hext _).trans (word_hi_lo _ a _)
  | idx f => exact (hidx _).trans (idx_bytes _ f _)

theorem readsAs_mem_only {mk : MemOp → Instr}
    (hdir : ∀ bs, decode (dir :: bs) = byte (fun d => done (mk (.dir d))) bs)
    (hext : ∀ bs, decode (ext :: bs) = word (fun a => done (mk (.ext a))) bs)
    (hidx : ∀ bs, decode (ix :: bs) = idx (fun f => done (mk (.idx f))) bs) (op : MemOp) :
    ReadsAs (op.bytes dir ext ix) (mk op) := by
  have h := readsAs_mem (k := fun op => done (mk op)) [] hdir hext hidx (fun _ _ => rfl) op
  rwa [List.append_nil] at h


theorem readsAs_long {op : Byte} {mk : Word → Instr}
    (hword : ∀ bs, decode (0x18#8 :: op :: bs) = word (fun offset => done (mk offset)) bs) (offset : Word) :
    ReadsAs [0x18#8, op, hiByte offset, loByte offset] (mk offset) := by
  intro rest
  exact (hword _).trans (word_hi_lo _ offset rest)

end families

theorem readsAs_movb (src : MovSrc8) (dst : MovDst) : ReadsAs (encodeMovb src dst) (.movb src dst) := by
  intro rest
  cases src with
  | imm v =>
    cases dst with
    | ext a => exact word_hi_lo (fun hl => done (.movb (.imm v) (.ext hl))) a rest
    | idx f => exact idx_bytes_append (fun f => byte fun ii => done (.movb (.imm ii) (.idx f))) f [v] rest
  | ext a =>
    cases dst with
    | ext d =>
      exact (word_hi_lo (fun sa => word fun da => done (.movb (.ext sa) (.ext da))) a _).trans (word_hi_lo _ d rest)
    | idx f =>
      exact (idx_bytes_append (fun f => word fun hl => done (.movb (.ext hl) (.idx f))) f _ rest).trans
        (word_hi_lo _ a rest)
  | idx f =>
    cases dst with
    | ext a =>
      exact (idx_bytes_append (fun f => word fun hl => done (.movb (.idx f) (.ext hl))) f _ rest).trans
        (word_hi_lo _ a rest)
    | idx g =>
      exact (idx_bytes_append (fun f => idx fun g => done (.movb (.idx f) (.idx g))) f _ rest).trans
        (idx_bytes _ g rest)

theorem readsAs_movw (src : MovSrc16) (dst : MovDst) : ReadsAs (encodeMovw src dst) (.movw src dst) := by
  intro rest
  cases src with
  | imm v =>
    cases dst with
    | ext a =>
      exact (word_hi_lo (fun jk => word fun hl => done (.movw (.imm jk) (.ext hl))) v _).trans (word_hi_lo _ a rest)
    | idx f =>
      exact (idx_bytes_append (fun f => word fun jk => done (.movw (.imm jk) (.idx f))) f _ rest).trans
        (word_hi_lo _ v rest)
  | ext a =>
    cases dst with
    | ext d =>
      exact (word_hi_lo (fun sa => word fun da => done (.movw (.ext sa) (.ext da))) a _).trans (word_hi_lo _ d rest)
    | idx f =>
      exact (idx_bytes_append (fun f => word fun hl => done (.movw (.ext hl) (.idx f))) f _ rest).trans
        (word_hi_lo _ a rest)
  | idx f =>
    cases dst with
    | ext a =>
      exact (idx_bytes_append (fun f => word fun hl => done (.movw (.idx f) (.ext hl))) f _ rest).trans
        (word_hi_lo _ a rest)
    | idx g =>
      exact (idx_bytes_append (fun f => idx fun g => done (.movw (.idx f) (.idx g))) f _ rest).trans
        (idx_bytes _ g rest)

set_option maxRecDepth 4000 in
theorem readsAs_andcc (mask : Byte) : ReadsAs (encode (.andcc mask)) (Instr.andcc mask).canon := by
  intro rest
  change readAndcc (mask :: rest) = _
  simp only [readAndcc, byte, Instr.canon]
  split_ifs <;> rfl

set_option maxRecDepth 4000 in
/-- The bytes of every instruction are read to their end, under its core name. -/
theorem readsAs_encode (i : Instr) : ReadsAs (encode i) i.canon := by
  cases i with
  | ldaa src | ldab src | adda src | addb src | adca src | adcb src | suba src | subb src | sbca src | sbcb src
  | anda src | andb src | eora src | eorb src | oraa src | orab src | bita src | bitb src | cmpa src | cmpb src =>
    exact readsAs_src8 (fun _ => rfl) (fun _ => rfl) (fun _ => rfl) (fun _ => rfl) src
  | ldd src | ldx src | ldy src | lds src | addd src | subd src | cpd src | cps src | cpx src | cpy src =>
    exact readsAs_src16 (fun _ => rfl) (fun _ => rfl) (fun _ => rfl) (fun _ => rfl) src
  | staa op | stab op | std op | stx op | sty op | sts op | jsr op =>
    exact readsAs_mem_only (fun _ => rfl) (fun _ => rfl) (fun _ => rfl) op
  | lsl op | lsr op | asl op | asr op | rol op | ror op | dec op | inc op | com op | neg op | tst op =>
    exact readsAs_rmw (fun _ => rfl) (fun _ => rfl) op
  | bclr op mask =>
    exact readsAs_mem (k := fun op => byte fun m => done (.bclr op m)) [mask] (fun _ => rfl) (fun _ => rfl)
      (fun _ => rfl) (fun _ _ => rfl) op
  | bset op mask =>
    exact readsAs_mem (k := fun op => byte fun m => done (.bset op m)) [mask] (fun _ => rfl) (fun _ => rfl)
      (fun _ => rfl) (fun _ _ => rfl) op
  | brset op mask rel =>
    exact readsAs_mem (k := fun op => byte fun m => byte fun r => done (.brset op m r)) [mask, rel] (fun _ => rfl)
      (fun _ => rfl) (fun _ => rfl) (fun _ _ => rfl) op
  | movb src dst => exact readsAs_movb src dst
  | movw src dst => exact readsAs_movw src dst
  | andcc mask => exact readsAs_andcc mask
  | lbrn rel | lbra rel | lbcc rel | lbcs rel | lbeq rel | lbne rel | lbmi rel | lbpl rel | lbvs rel | lbvc rel
  | lbhs rel | lbhi rel | lbls rel | lblo rel | lbge rel | lbgt rel | lble rel | lblt rel =>
    exact readsAs_long (fun _ => rfl) rel
  | _ => exact fun _ => rfl

/-! ### The end of an instruction -/

theorem done_of_wellFormed {i : Instr} (h : i.wellFormed = true) (bs : List Byte) : done i bs = .instr i bs :=
  if_pos h

theorem done_of_not_wellFormed {i : Instr} (h : i.wellFormed = false) (bs : List Byte) : done i bs = .refused :=
  if_neg (ne_true_of_eq_false h)

theorem Instr.wellFormed_canon (i : Instr) : i.canon.wellFormed = i.wellFormed := by
  cases i with
  | andcc mask => simp only [Instr.canon]; split_ifs <;> rfl
  | _ => rfl

theorem Instr.encode_canon (i : Instr) : encode i.canon = encode i := by
  cases i with
  | andcc mask =>
    simp only [Instr.canon]
    split_ifs with clc cli clv
    · rw [clc]; rfl
    · rw [cli]; rfl
    · rw [clv]; rfl
    · rfl
  | _ => rfl

/-- Settles O1: the bytes are read to the end of the instruction, which is admitted. -/
theorem decodeOfEncode : Obligations.DecodeOfEncode := by
  intro i rest wf
  rw [readsAs_encode i rest, done_of_wellFormed (i.wellFormed_canon.trans wf)]

/-! ### The excluded forms -/

theorem admitted_of_not_wellFormed {i : Instr} (h : i.wellFormed = false) (o : Machine.Out) :
    admitted i o = .refused (.noInstruction (encode i)) :=
  if_neg (ne_true_of_eq_false h)

/-- The meaning of an instruction that has excluded forms starts by asking whether it is admitted. -/
theorem exec_of_not_wellFormed {i : Instr} (h : i.wellFormed = false) (s : State) :
    exec i s = .refused (.noInstruction (encode i)) := by
  cases i with
  | ldx | ldy | lds | stx | sty | sts | movb | movw | cps | cpx | cpy | bset | bclr | brset | jsr =>
    exact admitted_of_not_wellFormed h _
  | _ => cases h

/-- Settles O3. -/
theorem excludedFormsRefused : Obligations.ExcludedFormsRefused := by
  intro i rest s h
  refine ⟨?_, exec_of_not_wellFormed h s⟩
  rw [readsAs_encode i rest, done_of_not_wellFormed (i.wellFormed_canon.trans h)]

end Sys2Proof
end

section
/-! What the decoder reads (30_encoding.md R80 to R83, R131): three facts about a reader, kept by every combinator the
decoder is built from, so that each row of the opcode table is looked at once. -/

namespace Sys2Proof

/-- The same result with more bytes left to read after it. -/
def Decoded.followedBy (more : List Byte) : Decoded → Decoded
  | .instr i rest => .instr i (rest ++ more)
  | .more => .more
  | .refused => .refused

/-- `r` is a sound reader of what stands after the bytes `before`: what it answers has exactly the bytes read as its
encoding, it decides on `n` bytes, and bytes after those that decide change nothing. -/
structure ReadsAfter (before : List Byte) (n : Nat) (r : Reader) : Prop where
  exact_bytes : ∀ bs i rest, r bs = .instr i rest →
    before ++ bs = encode i ++ rest ∧ i.wellFormed = true ∧ i.canon = i
  decides : ∀ bs, n ≤ bs.length → r bs ≠ .more
  stable : ∀ bs more, r bs ≠ .more → r (bs ++ more) = (r bs).followedBy more

/-! ### The combinators -/

theorem ReadsAfter.refused (before : List Byte) (n : Nat) : ReadsAfter before n (fun _ => .refused) where
  exact_bytes _ _ _ h := nomatch h
  decides _ _ h := nomatch h
  stable _ _ _ := rfl

theorem ReadsAfter.done {before : List Byte} {n : Nat} {i : Instr} (bytes : encode i = before) (core : i.canon = i) :
    ReadsAfter before n (done i) := by
  subst bytes
  cases wf : i.wellFormed with
  | false =>
    have refuses : Sys2Proof.done i = fun _ => .refused := funext (done_of_not_wellFormed wf)
    exact refuses ▸ ReadsAfter.refused _ n
  | true =>
    have admits : Sys2Proof.done i = fun bs => .instr i bs := funext (done_of_wellFormed wf)
    rw [admits]
    refine ⟨fun bs j rest h => ?_, fun _ _ h => (nomatch h), fun _ _ _ => rfl⟩
    cases h
    exact ⟨rfl, wf, core⟩

variable {before : List Byte} {n : Nat}

theorem ReadsAfter.byte {k : Byte → Reader} (h : ∀ b, ReadsAfter (before ++ [b]) n (k b)) :
    ReadsAfter before (n + 1) (byte k) where
  exact_bytes
    | [], _, _, e => nomatch e
    | b :: bs, i, rest, e => List.append_cons before b bs ▸ (h b).exact_bytes bs i rest e
  decides
    | b :: bs, len => (h b).decides bs (Nat.le_of_succ_le_succ len)
  stable
    | [], _, e => absurd rfl e
    | b :: bs, more, e => (h b).stable bs more e

theorem ReadsAfter.word {k : Word → Reader} (h : ∀ w, ReadsAfter (before ++ [hiByte w, loByte w]) n (k w)) :
    ReadsAfter before (n + 2) (word k) := by
  refine ReadsAfter.byte fun hi => ReadsAfter.byte fun lo => ?_
  have read := h (join hi lo)
  rwa [Machine.hiByte_join, Machine.loByte_join, List.append_cons] at read

theorem ReadsAfter.mono {m : Nat} {r : Reader} (h : ReadsAfter before n r) (hnm : n ≤ m) : ReadsAfter before m r where
  exact_bytes := h.exact_bytes
  decides bs len := h.decides bs (Nat.le_trans hnm len)
  stable := h.stable

/-- At most three bytes select an indexed form. -/
theorem ReadsAfter.idx {k : IdxForm → Reader} (h : ∀ f, ReadsAfter (before ++ f.bytes) n (k f)) :
    ReadsAfter before (n + 3) (idx k) := by
  have idx_eq : Sys2Proof.idx k = Sys2Proof.byte fun xb bs => Sys2Proof.idx k (xb :: bs) := by
    funext bs
    cases bs <;> rfl
  rw [idx_eq]
  refine ReadsAfter.byte fun xb => ?_
  obtain ⟨f, bytes_eq, read⟩ | ⟨mk, bytes_eq, read⟩ | ⟨mk, bytes_eq, read⟩ := idx_cons_cases xb
  · rw [funext (read k), ← bytes_eq]
    exact (h f).mono (Nat.le_add_right n 2)
  · rw [funext (read k)]
    refine (ReadsAfter.byte fun ee => ?_).mono (Nat.le_succ (n + 1))
    rw [List.append_assoc, List.singleton_append, ← bytes_eq]
    exact h (mk ee)
  · rw [funext (read k)]
    refine ReadsAfter.word fun w => ?_
    rw [List.append_assoc, List.singleton_append, ← bytes_eq]
    exact h (mk w)

/-- The reader of every row is sound after its opcode byte. -/
def RowsRead (before : List Byte) (n : Nat) (rows : List Row) : Prop :=
  ∀ row ∈ rows, ReadsAfter (before ++ [row.1]) n row.2

theorem rowsRead_append {rows rows' : List Row} :
    RowsRead before n (rows ++ rows') ↔ RowsRead before n rows ∧ RowsRead before n rows' :=
  List.forall_mem_append

theorem RowsRead.cons {op : Byte} {r : Reader} {rows : List Row} (h : ReadsAfter (before ++ [op]) n r)
    (hrows : RowsRead before n rows) : RowsRead before n ((op, r) :: rows) :=
  List.forall_mem_cons.2 ⟨h, hrows⟩

theorem RowsRead.nil : RowsRead before n [] := fun _ h => nomatch h

theorem RowsRead.find {rows : List Row} (h : RowsRead before n rows) (op : Byte) :
    ReadsAfter (before ++ [op]) n (find rows op) := by
  induction rows with
  | nil => exact ReadsAfter.refused _ n
  | cons row rows ih =>
    obtain ⟨b, r⟩ := row
    obtain ⟨hr, hrows⟩ := List.forall_mem_cons.1 h
    simp only [Sys2Proof.find]
    split_ifs with same
    · exact same ▸ hr
    · exact ih hrows

/-! ### The families of rows -/

section families

variable {imm dir ext ix : Byte}

theorem RowsRead.src8 {mk : Src8 → Instr} (bytes : ∀ src, encode (mk src) = src.bytes imm dir ext ix)
    (core : ∀ src, (mk src).canon = mk src) : RowsRead [] (n + 3) (rowsSrc8 imm dir ext ix mk) :=
  .cons (.byte fun v => .done (bytes (.imm v)) (core _)) <|
  .cons (.byte fun d => .done (bytes (.dir d)) (core _)) <|
  .cons (.word fun a => .done (bytes (.ext a)) (core _)) <|
  .cons (.idx fun f => .done (bytes (.idx f)) (core _)) .nil

theorem RowsRead.src16 {mk : Src16 → Instr} (bytes : ∀ src, encode (mk src) = src.bytes imm dir ext ix)
    (core : ∀ src, (mk src).canon = mk src) : RowsRead [] (n + 3) (rowsSrc16 imm dir ext ix mk) :=
  .cons (.word fun v => .done (bytes (.imm v)) (core _)) <|
  .cons (.byte fun d => .done (bytes (.dir d)) (core _)) <|
  .cons (.word fun a => .done (bytes (.ext a)) (core _)) <|
  .cons (.idx fun f => .done (bytes (.idx f)) (core _)) .nil

theorem RowsRead.mem {mk : MemOp → Instr} (bytes : ∀ op, encode (mk op) = op.bytes dir ext ix)
    (core : ∀ op, (mk op).canon = mk op) : RowsRead [] (n + 3) (rowsMem dir ext ix mk) :=
  .cons (.byte fun d => .done (bytes (.dir d)) (core _)) <|
  .cons (.word fun a => .done (bytes (.ext a)) (core _)) <|
  .cons (.idx fun f => .done (bytes (.idx f)) (core _)) .nil

theorem RowsRead.rmw {mk : RmwOp → Instr} (bytes : ∀ op, encode (mk op) = op.bytes ext ix)
    (core : ∀ op, (mk op).canon = mk op) : RowsRead [] (n + 3) (rowsRmw ext ix mk) :=
  .cons (.word fun a => .done (bytes (.ext a)) (core _)) <|
  .cons (.idx fun f => .done (bytes (.idx f)) (core _)) .nil

theorem RowsRead.mask {mk : MemOp → Byte → Instr}
    (bytes : ∀ op m, encode (mk op m) = op.bytes dir ext ix ++ [m]) (core : ∀ op m, (mk op m).canon = mk op m) :
    RowsRead [] (n + 4) (rowsMask dir ext ix mk) :=
  .cons (.byte fun d => .byte fun m => .done (bytes (.dir d) m) (core _ _)) <|
  .cons (.word fun a => .byte fun m => .done (bytes (.ext a) m) (core _ _)) <|
  .cons (.idx fun f => .byte fun m => .done (bytes (.idx f) m) (core _ _)) .nil

theorem RowsRead.maskRel {mk : MemOp → Byte → Byte → Instr}
    (bytes : ∀ op m r, encode (mk op m r) = op.bytes dir ext ix ++ [m, r])
    (core : ∀ op m r, (mk op m r).canon = mk op m r) : RowsRead [] (n + 5) (rowsMaskRel dir ext ix mk) := by
  have bytes' (op : MemOp) (m r : Byte) : encode (mk op m r) = op.bytes dir ext ix ++ [m] ++ [r] := by
    rw [bytes, List.append_assoc]; rfl
  exact
    .cons (.byte fun d => .byte fun m => .byte fun r => .done (bytes' (.dir d) m r) (core _ _ _)) <|
    .cons (.word fun a => .byte fun m => .byte fun r => .done (bytes' (.ext a) m r) (core _ _ _)) <|
    .cons (.idx fun f => .byte fun m => .byte fun r => .done (bytes' (.idx f) m r) (core _ _ _)) .nil

theorem RowsRead.one {op : Byte} {r : Reader} (h : ReadsAfter (before ++ [op]) n r) : RowsRead before n [(op, r)] :=
  .cons h .nil

end families

/-! ### The opcode table -/

theorem rowsRead_page1Src8 : RowsRead [] 7 page1Src8 := by
  unfold page1Src8
  simp only [rowsRead_append]
  and_intros
  all_goals exact .src8 (fun _ => rfl) (fun _ => rfl)

theorem rowsRead_page1Src16 : RowsRead [] 7 page1Src16 := by
  unfold page1Src16
  simp only [rowsRead_append]
  and_intros
  all_goals exact .src16 (fun _ => rfl) (fun _ => rfl)

theorem rowsRead_page1Mem : RowsRead [] 7 page1Mem := by
  unfold page1Mem
  simp only [rowsRead_append]
  and_intros
  all_goals exact .mem (fun _ => rfl) (fun _ => rfl)

theorem rowsRead_page1Rmw : RowsRead [] 7 page1Rmw := by
  unfold page1Rmw
  simp only [rowsRead_append]
  and_intros
  all_goals exact .rmw (fun _ => rfl) (fun _ => rfl)

theorem rowsRead_page1Mask : RowsRead [] 7 page1Mask := by
  unfold page1Mask
  simp only [rowsRead_append]
  exact ⟨⟨.mask (fun _ _ => rfl) (fun _ _ => rfl), .mask (fun _ _ => rfl) (fun _ _ => rfl)⟩,
    .maskRel (fun _ _ _ => rfl) (fun _ _ _ => rfl)⟩

theorem rowsRead_page1Inh : RowsRead [] 7 page1Inh := by
  unfold page1Inh
  simp only [rowsRead_append]
  and_intros
  all_goals exact .one (.done rfl rfl)

theorem rowsRead_page1Rel : RowsRead [] 7 page1Rel := by
  unfold page1Rel
  simp only [rowsRead_append]
  and_intros
  all_goals exact .one (.byte fun _ => .done rfl rfl)

/-- With a mask of CLC, CLI or CLV the row reads those, so what it reads as ANDCC is a core name (R123). -/
theorem readsAfter_andcc : ReadsAfter [0x10#8] 7 readAndcc := by
  refine .byte (n := 6) fun mask => ?_
  split_ifs with clc cli clv
  · exact .done (congrArg (fun m => [0x10#8, m]) clc.symm) rfl
  · exact .done (congrArg (fun m => [0x10#8, m]) cli.symm) rfl
  · exact .done (congrArg (fun m => [0x10#8, m]) clv.symm) rfl
  · exact .done rfl (by simp only [Instr.canon, clc, cli, clv, if_false])

theorem readsAfter_fixed {op b : Byte} {i : Instr} (bytes : encode i = [op, b]) (core : i.canon = i) :
    ReadsAfter [op] 7 (fixed b i) := by
  refine .byte (n := 6) fun second => ?_
  split_ifs with same
  · exact .done (same ▸ bytes) core
  · exact .refused _ _

theorem readsAfter_fixed2 {op b c : Byte} {i j : Instr} (bytes_i : encode i = [op, b]) (core_i : i.canon = i)
    (bytes_j : encode j = [op, c]) (core_j : j.canon = j) : ReadsAfter [op] 7 (fixed2 b i c j) := by
  refine .byte (n := 6) fun second => ?_
  split_ifs with same_b same_c
  · exact .done (same_b ▸ bytes_i) core_i
  · exact .done (same_c ▸ bytes_j) core_j
  · exact .refused _ _

theorem rowsRead_page1Fixed : RowsRead [] 7 page1Fixed :=
  .cons readsAfter_andcc <| .cons (.byte fun _ => .done rfl rfl) <| .cons (readsAfter_fixed rfl rfl) <|
  .cons (readsAfter_fixed rfl rfl) <| .cons (readsAfter_fixed2 rfl rfl rfl rfl) <|
  .cons (readsAfter_fixed2 rfl rfl rfl rfl) .nil

theorem rowsRead_page1 : RowsRead [] 7 page1 := by
  unfold page1
  simp only [rowsRead_append]
  exact ⟨⟨⟨⟨⟨⟨⟨rowsRead_page1Src8, rowsRead_page1Src16⟩, rowsRead_page1Mem⟩, rowsRead_page1Rmw⟩, rowsRead_page1Mask⟩,
    rowsRead_page1Inh⟩, rowsRead_page1Rel⟩, rowsRead_page1Fixed⟩

theorem rowsRead_page2Movw : RowsRead [0x18#8] 6 page2Movw :=
  .cons (.idx fun _ => .word fun _ => .done rfl rfl) <| .cons (.idx fun _ => .word fun _ => .done rfl rfl) <|
  .cons (.idx fun _ => .idx fun _ => .done rfl rfl) <| .cons (.word fun _ => .word fun _ => .done rfl rfl) <|
  .cons (.word fun _ => .word fun _ => .done rfl rfl) <| .cons (.idx fun _ => .word fun _ => .done rfl rfl) .nil

theorem rowsRead_page2Movb : RowsRead [0x18#8] 6 page2Movb :=
  .cons (.idx fun _ => .byte fun _ => .done rfl rfl) <| .cons (.idx fun _ => .word fun _ => .done rfl rfl) <|
  .cons (.idx fun _ => .idx fun _ => .done rfl rfl) <| .cons (.byte fun _ => .word fun _ => .done rfl rfl) <|
  .cons (.word fun _ => .word fun _ => .done rfl rfl) <| .cons (.idx fun _ => .word fun _ => .done rfl rfl) .nil

theorem rowsRead_page2Rest : RowsRead [0x18#8] 6 page2Rest := by
  unfold page2Rest
  simp only [rowsRead_append]
  and_intros
  any_goals exact .one (.word fun _ => .done rfl rfl)
  all_goals exact .one (.done rfl rfl)

theorem rowsRead_page2 : RowsRead [0x18#8] 6 page2 := by
  unfold page2
  simp only [rowsRead_append]
  exact ⟨⟨rowsRead_page2Movw, rowsRead_page2Movb⟩, rowsRead_page2Rest⟩

/-- The whole decoder: six bytes after the page byte $18 and the opcode decide. -/
theorem readsAfter_decode : ReadsAfter [] 8 decode := by
  refine .byte (n := 7) fun op => ?_
  split_ifs with page
  · subst page
    exact .byte fun op2 => rowsRead_page2.find op2
  · exact rowsRead_page1.find op

/-- The laws of the single instructions, put together (30_encoding.md R80). -/
theorem length_le_six {i : Instr} (wf : i.wellFormed = true) : 1 ≤ i.length ∧ i.length ≤ 6 := by
  cases i with
  | ldaa src | ldab src | adda src | addb src | adca src | adcb src | suba src | subb src | sbca src | sbcb src
  | anda src | andb src | eora src | eorb src | oraa src | orab src | bita src | bitb src | cmpa src | cmpb src =>
    exact Laws.EncodedLength.src8_len _ _ _ _ src
  | ldd src | ldx src | ldy src | lds src | addd src | subd src | cpd src | cps src | cpx src | cpy src =>
    exact Laws.EncodedLength.src16_len _ _ _ _ src
  | staa op | stab op | std op | stx op | sty op | sts op | jsr op => exact Laws.EncodedLength.mem_len _ _ _ op
  | lsl op | lsr op | asl op | asr op | rol op | ror op | dec op | inc op | com op | neg op | tst op =>
    exact Laws.EncodedLength.rmw_len _ _ op
  | bclr op mask | bset op mask => exact Laws.EncodedLength.mem_len1 _ _ _ op mask
  | brset op mask rel => exact Laws.EncodedLength.brset op mask rel wf
  | movb src dst => exact Laws.EncodedLength.movb src dst wf
  | movw src dst => exact Laws.EncodedLength.movw src dst wf
  | _ => exact ⟨Nat.le_of_ble_eq_true rfl, Nat.le_of_ble_eq_true rfl⟩

/-- Settles O2. -/
theorem encodeOfDecode : Obligations.EncodeOfDecode := by
  refine ⟨fun bytes rest i h => ?_, readsAfter_decode.decides⟩
  obtain ⟨bytes_eq, wf, core⟩ := readsAfter_decode.exact_bytes bytes i rest h
  exact ⟨bytes_eq, wf, core, length_le_six wf⟩

end Sys2Proof
end

section
/-! Which operand forms are excluded (30_encoding.md R105, R108, R114, R125; 92_eei_decisions.md D21), the fixed second
bytes (R123) and the encodings that the source prints (R120). -/

namespace Sys2Proof

open Machine (Decodes NotDecoded)

/-! ### The checks of well-formedness -/

theorem stepped_eq_some {f : IdxForm} {r : AutoReg} : f.stepped = some r ↔ ∃ m n, f = .auto r m n := by
  cases f <;> simp [IdxForm.stepped]

theorem bind_stepped_eq_some {f : Option IdxForm} {r : AutoReg} :
    f.bind IdxForm.stepped = some r ↔ ∃ m n, f = some (.auto r m n) := by
  cases f <;> simp [stepped_eq_some]

theorem notStepping_eq_false {r : AutoReg} {f : Option IdxForm} :
    notStepping r f = false ↔ ∃ m n, f = some (.auto r m n) := by
  rw [notStepping, bne_eq_false_iff_eq, bind_stepped_eq_some]

theorem bitOperandOk_eq_false {f : Option IdxForm} :
    bitOperandOk f = false ↔ ∃ g, (g.indirect = true ∨ g.pcBased = true) ∧ f = some g := by
  cases f with
  | none => simp [bitOperandOk]
  | some g => cases hi : g.indirect <;> simp [bitOperandOk, hi]

theorem movOperandOk_eq_false {f : Option IdxForm} :
    movOperandOk f = false ↔ ∃ g, (g.extBytes ≠ 0 ∨ g.indirect = true ∨ g.pcBased = true) ∧ f = some g := by
  cases f with
  | none => simp [movOperandOk]
  | some g => cases hi : g.indirect <;> by_cases he : g.extBytes = 0 <;> simp [movOperandOk, hi, he]

theorem movStepsOk_eq_false {src dst : Option IdxForm} :
    movStepsOk src dst = false ↔ ∃ r m n m' n', src = some (.auto r m n) ∧ dst = some (.auto r m' n') := by
  have both : movStepsOk src dst = false ↔
      ∃ r, src.bind IdxForm.stepped = some r ∧ dst.bind IdxForm.stepped = some r := by
    unfold movStepsOk
    cases src.bind IdxForm.stepped with
    | none => simp
    | some r =>
      cases dst.bind IdxForm.stepped with
      | none => simp
      | some r' => simpa using eq_comm
  simp only [both, bind_stepped_eq_some, exists_and_left, exists_and_right]

/-! ### An operand with an indexed form -/

theorem Src16.form_eq_some {src : Src16} {f : IdxForm} : src.form = some f ↔ src = .idx f := by
  cases src <;> simp [Src16.form]

theorem MemOp.form_eq_some {op : MemOp} {f : IdxForm} : op.form = some f ↔ op = .idx f := by
  cases op <;> simp [MemOp.form]

theorem MovSrc8.form_eq_some {src : MovSrc8} {f : IdxForm} : src.form = some f ↔ src = .idx f := by
  cases src <;> simp [MovSrc8.form]

theorem MovSrc16.form_eq_some {src : MovSrc16} {f : IdxForm} : src.form = some f ↔ src = .idx f := by
  cases src <;> simp [MovSrc16.form]

theorem MovDst.form_eq_some {dst : MovDst} {f : IdxForm} : dst.form = some f ↔ dst = .idx f := by
  cases dst <;> simp [MovDst.form]

theorem movb_wellFormed_eq_false {src : MovSrc8} {dst : MovDst} : (Instr.movb src dst).wellFormed = false ↔
    (∃ f, (f.extBytes ≠ 0 ∨ f.indirect = true ∨ f.pcBased = true) ∧ (src = .idx f ∨ dst = .idx f)) ∨
    ∃ r m n m' n', src = .idx (.auto r m n) ∧ dst = .idx (.auto r m' n') := by
  simp only [Instr.wellFormed, Bool.and_eq_false_iff, movOperandOk_eq_false, movStepsOk_eq_false,
    MovSrc8.form_eq_some, MovDst.form_eq_some, and_or_left, exists_or]

theorem movw_wellFormed_eq_false {src : MovSrc16} {dst : MovDst} : (Instr.movw src dst).wellFormed = false ↔
    (∃ f, (f.extBytes ≠ 0 ∨ f.indirect = true ∨ f.pcBased = true) ∧ (src = .idx f ∨ dst = .idx f)) ∨
    ∃ r m n m' n', src = .idx (.auto r m n) ∧ dst = .idx (.auto r m' n') := by
  simp only [Instr.wellFormed, Bool.and_eq_false_iff, movOperandOk_eq_false, movStepsOk_eq_false,
    MovSrc16.form_eq_some, MovDst.form_eq_some, and_or_left, exists_or]

/-- Settles O4: each check of well-formedness fails on the listed forms and on no other. -/
theorem excludedForms : Obligations.ExcludedForms := by
  intro i
  cases i with
  | ldx src | ldy src | lds src | cps src | cpx src | cpy src =>
    simp [Instr.wellFormed, notStepping_eq_false, Src16.form_eq_some]
  | stx op | sty op | sts op | jsr op =>
    simp [Instr.wellFormed, notStepping_eq_false, MemOp.form_eq_some]
  | bset op mask | bclr op mask | brset op mask rel =>
    simp [Instr.wellFormed, bitOperandOk_eq_false, MemOp.form_eq_some]
  | movb src dst => simp [movb_wellFormed_eq_false]
  | movw src dst => simp [movw_wellFormed_eq_false]
  | _ => simp [Instr.wellFormed]

/-! ### Printed bytes -/

/-- Bytes that the encoder writes for a core name are read as it. -/
theorem decodes_of_encode {i : Instr} {bytes : List Byte} (written : encode i = bytes) (wf : i.wellFormed = true)
    (core : i.canon = i) : Decodes bytes i := by
  intro rest
  rw [← written, decodeOfEncode i rest wf, core]

/-- Settles O8: the printed bytes are those the encoder writes. -/
theorem printedEncodings : Obligations.PrintedEncodings := by
  refine ⟨?_, ?_, ?_, ?_, ?_, ?_, ?_, ?_, ?_, ?_, ?_, ?_, ?_, ?_, ?_, ?_, ?_, ?_, ?_⟩
  all_goals exact decodes_of_encode rfl rfl rfl

/-! ### Fixed second bytes -/

theorem notDecoded_fixed {op b c : Byte} {i : Instr} (h : c ≠ b)
    (row : ∀ bs, decode (op :: bs) = fixed b i bs) : NotDecoded [op, c] := by
  intro rest
  exact (row _).trans (congrFun (if_neg h) rest)

theorem notDecoded_fixed2 {op b c d : Byte} {i j : Instr} (hb : d ≠ b) (hc : d ≠ c)
    (row : ∀ bs, decode (op :: bs) = fixed2 b i c j bs) : NotDecoded [op, d] := by
  intro rest
  exact (row _).trans (congrFun ((if_neg hb).trans (if_neg hc)) rest)

set_option maxRecDepth 4000 in
/-- Settles O7: the nine patterns are encodings, and the rows of $1A, $19, $1B and $B7 refuse any other second byte. -/
theorem fixedSecondBytes : Obligations.FixedSecondBytes := by
  refine ⟨?_, ?_, ?_, ?_, ?_, ?_, ?_, ?_, ?_, fun b h => ?_, fun b h => ?_, fun b h h' => ?_, fun b h h' => ?_⟩
  iterate 9 exact decodes_of_encode rfl rfl rfl
  · exact notDecoded_fixed (i := .abx) h fun _ => rfl
  · exact notDecoded_fixed (i := .aby) h fun _ => rfl
  · exact notDecoded_fixed2 (i := .des) (j := .ins) h h' fun _ => rfl
  · exact notDecoded_fixed2 (i := .tap) (j := .tpa) h h' fun _ => rfl

end Sys2Proof
end

section
/-! The fetch (20_memory.md R66, R67; 60_exceptions.md R426): bytes that stand at the pc are fetched one by one as long
as the decoder asks for more. -/

namespace Sys2Proof.Machine

open Sys2Proof

/-! ### The fetch of one byte more -/

section one

variable {s : State} {n : Nat} {bytes : List Byte}

theorem State.fetchMore_fault {e : Fault} (fetched : s.fetchByte (s.pc + BitVec.ofNat 16 bytes.length) = .error e) :
    s.fetchMore (n + 1) bytes = .fault e := by
  simp only [State.fetchMore, fetched]

theorem State.fetchMore_instr {b : Byte} {i : Instr} {rest : List Byte}
    (fetched : s.fetchByte (s.pc + BitVec.ofNat 16 bytes.length) = .ok b) (h : decode (bytes ++ [b]) = .instr i rest) :
    s.fetchMore (n + 1) bytes = .instr i := by
  simp only [State.fetchMore, fetched, h]

theorem State.fetchMore_refused {b : Byte} (fetched : s.fetchByte (s.pc + BitVec.ofNat 16 bytes.length) = .ok b)
    (h : decode (bytes ++ [b]) = .refused) : s.fetchMore (n + 1) bytes = .refused (bytes ++ [b]) := by
  simp only [State.fetchMore, fetched, h]

theorem State.fetchMore_more {b : Byte} (fetched : s.fetchByte (s.pc + BitVec.ofNat 16 bytes.length) = .ok b)
    (h : decode (bytes ++ [b]) = .more) : s.fetchMore (n + 1) bytes = s.fetchMore n (bytes ++ [b]) := by
  simp only [State.fetchMore, fetched, h]

end one

/-! ### Bytes at the pc -/

theorem bytesAt_append {s : State} {a : Word} {bs cs : List Byte} :
    BytesAt s a (bs ++ cs) ↔ BytesAt s a bs ∧ BytesAt s (a + BitVec.ofNat 16 bs.length) cs := by
  induction bs generalizing a with
  | nil => simp [BytesAt]
  | cons b bs ih =>
    have next : a + 1#16 + BitVec.ofNat 16 bs.length = a + BitVec.ofNat 16 (bs.length + 1) := by
      rw [BitVec.add_assoc, ← BitVec.ofNat_add, Nat.add_comm]
    simp only [List.cons_append, BytesAt, ih, List.length_cons, next, and_assoc]

/-- While a longer sequence is still undecided, so is every beginning of it. -/
theorem decode_more_of_append {bs cs : List Byte} (h : decode (bs ++ cs) = .more) : decode bs = .more := by
  by_contra decided
  have follow := readsAfter_decode.stable bs cs decided
  rw [h] at follow
  cases hd : decode bs with
  | more => exact decided hd
  | instr | refused => rw [hd] at follow; cases follow

/-- Undecided bytes at the pc are all fetched, at the price of one unit of fuel each. -/
theorem State.fetchMore_of_more {s : State} (n : Nat) : ∀ (cs bs : List Byte), BytesAt s s.pc (bs ++ cs) →
    decode (bs ++ cs) = .more → s.fetchMore (n + cs.length) bs = s.fetchMore n (bs ++ cs)
  | [], bs, _, _ => by rw [List.append_nil, List.length_nil, Nat.add_zero]
  | c :: cs, bs, at_pc, undecided => by
    rw [List.append_cons] at at_pc undecided ⊢
    obtain ⟨_, fetched, _⟩ := bytesAt_append.1 (bytesAt_append.1 at_pc).1
    rw [List.length_cons, ← Nat.add_assoc, State.fetchMore_more fetched (decode_more_of_append undecided)]
    exact State.fetchMore_of_more n cs (bs ++ [c]) at_pc undecided

/-- What the fetch gives is settled at the first byte after those that the decoder leaves undecided: eight are never
undecided, so the fuel lasts. -/
theorem State.fetch_of_more {s : State} {bytes : List Byte} (at_pc : BytesAt s s.pc bytes)
    (undecided : decode bytes = .more) : ∃ n, s.fetch = s.fetchMore (n + 1) bytes := by
  have short : bytes.length < 8 := Nat.lt_of_not_le fun len => readsAfter_decode.decides bytes len undecided
  refine ⟨7 - bytes.length, ?_⟩
  have fuel : 8 = 7 - bytes.length + 1 + bytes.length := by omega
  rw [State.fetch, fuel]
  exact State.fetchMore_of_more _ bytes [] at_pc undecided

/-! ### The step after the fetch -/

section step

variable {s : State} (running : s.over = false)
include running

theorem step_of_fetch_instr {i : Instr} (h : s.fetch = .instr i) : Machine.step s = exec i s := by
  simp [Machine.step, running, h]

theorem step_of_fetch_fault {e : Fault} (h : s.fetch = .fault e) : Machine.step s = .fault e := by
  simp [Machine.step, running, h]

theorem step_of_fetch_refused {bytes : List Byte} (h : s.fetch = .refused bytes) :
    Machine.step s = .refused (.noInstruction bytes) := by
  simp [Machine.step, running, h]

end step

/-- Without its last byte an instruction is undecided: what decides before the end leaves bytes over. -/
theorem decode_more_of_instr {bs : List Byte} {b : Byte} {i : Instr} (h : decode (bs ++ [b]) = .instr i []) :
    decode bs = .more := by
  by_contra decided
  have follow := readsAfter_decode.stable bs [b] decided
  rw [h] at follow
  cases hd : decode bs with
  | more => exact decided hd
  | refused => rw [hd] at follow; cases follow
  | instr j rest =>
    rw [hd] at follow
    injection follow with _ left_over
    exact absurd left_over.symm (List.append_ne_nil_of_right_ne_nil rest (List.cons_ne_nil b []))

/-- Settles O10: all bytes but the last are undecided, and with the last the fetch ends. -/
theorem stepRunsDecoded : Obligations.StepRunsDecoded := by
  intro s bytes i running at_pc decoded
  rcases List.eq_nil_or_concat' bytes with rfl | ⟨bs, b, rfl⟩
  · cases decoded
  · obtain ⟨at_bs, fetched, _⟩ := bytesAt_append.1 at_pc
    obtain ⟨n, fetch_eq⟩ := State.fetch_of_more at_bs (decode_more_of_instr decoded)
    exact step_of_fetch_instr running (fetch_eq.trans (State.fetchMore_instr fetched decoded))

/-- Settles O11. -/
theorem stepStopsAtTheFetch : Obligations.StepStopsAtTheFetch := by
  refine fun s running => ⟨fun bytes e at_pc undecided fetched => ?_, fun bytes b at_pc undecided fetched h => ?_⟩
  all_goals obtain ⟨n, fetch_eq⟩ := State.fetch_of_more at_pc undecided
  · exact step_of_fetch_fault running (fetch_eq.trans (State.fetchMore_fault fetched))
  · exact step_of_fetch_refused running (fetch_eq.trans (State.fetchMore_refused fetched h))

end Sys2Proof.Machine
end

section
/-! The flags (00_scope.md R11 to R16; 10_state.md R27; 41_shift_rotate.md R201): the CCR as a byte, the laws of
addition and subtraction as arithmetic, and the shifts. -/

namespace Sys2Proof.Machine

open Sys2Proof

/-! ### The CCR as a byte -/

theorem Ccr.getLsbD_toByte (f : Ccr) :
    f.toByte.getLsbD 7 = f.s ∧ f.toByte.getLsbD 6 = f.x ∧ f.toByte.getLsbD 5 = f.h ∧ f.toByte.getLsbD 4 = f.i ∧
    f.toByte.getLsbD 3 = f.n ∧ f.toByte.getLsbD 2 = f.z ∧ f.toByte.getLsbD 1 = f.v ∧ f.toByte.getLsbD 0 = f.c := by
  obtain ⟨s, x, h, i, n, z, v, c⟩ := f
  revert s x h i n z v c
  decide

theorem Ccr.ofByte_toByte (f : Ccr) : Ccr.ofByte f.toByte = f := by
  obtain ⟨hs, hx, hh, hi, hn, hz, hv, hc⟩ := f.getLsbD_toByte
  rw [Ccr.ofByte, hs, hx, hh, hi, hn, hz, hv, hc]

theorem Ccr.toByte_ofByte : ∀ b : Byte, (Ccr.ofByte b).toByte = b := by decide

/-! ### The sign bit -/

theorem msb_eq_getLsbD7 (r : Byte) : r.msb = r.getLsbD 7 := BitVec.msb_eq_getLsbD_last r

theorem msb_eq_getLsbD15 (r : Word) : r.msb = r.getLsbD 15 := BitVec.msb_eq_getLsbD_last r

theorem msb8_eq_decide (r : Byte) : r.msb = decide (128 ≤ r.toNat) := BitVec.msb_eq_decide r

theorem msb16_eq_decide (r : Word) : r.msb = decide (32768 ≤ r.toNat) := BitVec.msb_eq_decide r

theorem toInt8_eq (r : Byte) : r.toInt = if 128 ≤ r.toNat then (r.toNat : Int) - 256 else r.toNat := by
  rw [BitVec.toInt_eq_msb_cond, msb8_eq_decide]
  exact if_congr decide_eq_true_iff rfl rfl

theorem toInt16_eq (r : Word) : r.toInt = if 32768 ≤ r.toNat then (r.toNat : Int) - 65536 else r.toNat := by
  rw [BitVec.toInt_eq_msb_cond, msb16_eq_decide]
  exact if_congr decide_eq_true_iff rfl rfl

/-! ### Results -/

theorem toNat_add8 (a b : Byte) (cin : Bool) (f : Ccr) :
    (add8 a b cin f).1.toNat = (a.toNat + b.toNat + cin.toNat) % 256 := BitVec.toNat_ofNat ..

theorem toNat_add16 (a b : Word) (f : Ccr) : (add16 a b f).1.toNat = (a.toNat + b.toNat) % 65536 :=
  BitVec.toNat_ofNat ..

theorem toNat_sub8 (a b : Byte) (bin : Bool) (f : Ccr) :
    ((sub8 a b bin f).1.toNat : Int) = ((a.toNat : Int) - b.toNat - bin.toNat) % 256 := by
  rw [sub8, BitVec.toNat_ofInt]
  exact Int.toNat_of_nonneg (Int.emod_nonneg _ (by decide))

theorem toNat_sub16 (a b : Word) (f : Ccr) :
    ((sub16 a b f).1.toNat : Int) = ((a.toNat : Int) - b.toNat) % 65536 := by
  rw [sub16, BitVec.toNat_ofInt]
  exact Int.toNat_of_nonneg (Int.emod_nonneg _ (by decide))

/-! ### Overflow

The operands have one sign (in a subtraction: two signs) and the result has not the sign of the first. -/

theorem add8_v (a b : Byte) (cin : Bool) (f : Ccr) :
    (add8 a b cin f).2.v = true ↔ a.msb = b.msb ∧ (add8 a b cin f).1.msb ≠ a.msb := by
  simp [add8]

theorem add16_v (a b : Word) (f : Ccr) :
    (add16 a b f).2.v = true ↔ a.msb = b.msb ∧ (add16 a b f).1.msb ≠ a.msb := by
  simp [add16]

theorem sub8_v (a b : Byte) (bin : Bool) (f : Ccr) :
    (sub8 a b bin f).2.v = true ↔ a.msb ≠ b.msb ∧ (sub8 a b bin f).1.msb ≠ a.msb := by
  simp [sub8]

theorem sub16_v (a b : Word) (f : Ccr) :
    (sub16 a b f).2.v = true ↔ a.msb ≠ b.msb ∧ (sub16 a b f).1.msb ≠ a.msb := by
  simp [sub16]

/-- Settles O28. -/
theorem additionLaws : Obligations.AdditionLaws := by
  refine ⟨fun f r => ⟨msb_eq_getLsbD7 r, decide_eq_true_iff⟩, fun f r => ⟨msb_eq_getLsbD15 r, decide_eq_true_iff⟩,
    fun a b cin f => ?add8, fun a b f => ?add16⟩
  case add8 =>
    refine ⟨(add8 a b cin f).1, (add8 a b cin f).2, rfl, toNat_add8 a b cin f, decide_eq_true_iff,
      decide_eq_true_iff, ?_, msb_eq_getLsbD7 _, decide_eq_true_iff, rfl, rfl, rfl⟩
    simpa only [msb_eq_getLsbD7] using add8_v a b cin f
  case add16 =>
    refine ⟨(add16 a b f).1, (add16 a b f).2, rfl, toNat_add16 a b f, decide_eq_true_iff, ?_,
      msb_eq_getLsbD15 _, decide_eq_true_iff, rfl, rfl, rfl, rfl⟩
    simpa only [msb_eq_getLsbD15] using add16_v a b f

/-- Settles O29. -/
theorem subtractionLaws : Obligations.SubtractionLaws := by
  refine ⟨fun a b bin f => ?sub8, fun a b f => ?sub16⟩
  case sub8 =>
    refine ⟨(sub8 a b bin f).1, (sub8 a b bin f).2, rfl, toNat_sub8 a b bin f, decide_eq_true_iff, ?_,
      msb_eq_getLsbD7 _, decide_eq_true_iff, rfl, rfl, rfl, rfl⟩
    simpa only [msb_eq_getLsbD7] using sub8_v a b bin f
  case sub16 =>
    refine ⟨(sub16 a b f).1, (sub16 a b f).2, rfl, toNat_sub16 a b f, decide_eq_true_iff, ?_,
      msb_eq_getLsbD15 _, decide_eq_true_iff, rfl, rfl, rfl, rfl⟩
    simpa only [msb_eq_getLsbD15] using sub16_v a b f

/-- Settles O30: both sides are about the unsigned values of the operands and of the result. -/
theorem overflowIsSigned : Obligations.OverflowIsSigned := by
  refine ⟨fun a b cin f => ?eight, fun a b f => ?sixteen⟩
  case eight =>
    have a_lt : a.toNat < 256 := a.isLt
    have b_lt : b.toNat < 256 := b.isLt
    have c_le : cin.toNat ≤ 1 := cin.toNat_le
    have sum := toNat_add8 a b cin f
    have difference := toNat_sub8 a b cin f
    simp only [add8_v, sub8_v, Ne, msb8_eq_decide, decide_eq_decide, toInt8_eq]
    constructor <;> split_ifs <;> omega
  case sixteen =>
    have a_lt : a.toNat < 65536 := a.isLt
    have b_lt : b.toNat < 65536 := b.isLt
    have sum := toNat_add16 a b f
    have difference := toNat_sub16 a b f
    simp only [add16_v, sub16_v, Ne, msb16_eq_decide, decide_eq_decide, toInt16_eq]
    constructor <;> split_ifs <;> omega

end Sys2Proof.Machine
end

section
/-! The one-operand operations (42_arithmetic.md R224, R230; 43_logic_bit.md R271, R274) by the laws of subtraction and
addition, and the shifts and rotates (41_shift_rotate.md R180 to R201) as shifts of numbers. -/

namespace Sys2Proof.Machine

open Sys2Proof

/-! ### Subtraction without a borrow -/

theorem sub8_result (a b : Byte) (f : Ccr) : (sub8 a b false f).1 = a - b := by
  have a_lt : a.toNat < 256 := a.isLt
  have b_lt : b.toNat < 256 := b.isLt
  have difference := toNat_sub8 a b false f
  apply BitVec.eq_of_toNat_eq
  rw [BitVec.toNat_sub]
  simp only [Bool.toNat_false] at difference
  omega

theorem sub16_result (a b : Word) (f : Ccr) : (sub16 a b f).1 = a - b := by
  have a_lt : a.toNat < 65536 := a.isLt
  have b_lt : b.toNat < 65536 := b.isLt
  have difference := toNat_sub16 a b f
  apply BitVec.eq_of_toNat_eq
  rw [BitVec.toNat_sub]
  omega

/-! ### One operand -/

theorem inc8_overflow : ∀ m : Byte, decide (m = 0x7F#8) = (m.msb == (1#8).msb && (m + 1#8).msb != m.msb) := by decide

theorem dec8_overflow : ∀ m : Byte, decide (m = 0x80#8) = (m.msb != (1#8).msb && (m - 1#8).msb != m.msb) := by decide

theorem neg8_overflow : ∀ m : Byte, decide (0x00#8 - m = 0x80#8) =
    ((0x00#8).msb != m.msb && (0x00#8 - m).msb != (0x00#8).msb) := by decide

theorem neg8_borrow : ∀ m : Byte, decide (0x00#8 - m ≠ 0x00#8) = decide ((0x00#8).toNat < m.toNat + false.toNat) := by
  decide

theorem sub_eq_xor_ff : ∀ m : Byte, 0xFF#8 - m = m ^^^ 0xFF#8 := by decide

theorem sub8_flags (a b : Byte) (f : Ccr) : (sub8 a b false f).2 = { f.nz8 (a - b) with
    c := decide (a.toNat < b.toNat + false.toNat), v := a.msb != b.msb && (a - b).msb != a.msb } := by
  rw [← sub8_result a b f]; rfl

/-- Settles O31: the flags of each law, at the operand that the instruction fixes. -/
theorem oneOperandLaws : Obligations.OneOperandLaws := by
  refine fun m f => ⟨?inc, ?dec, ?neg, ?test, ?com⟩
  case inc => rw [inc8, inc8_overflow]; rfl
  case dec => rw [dec8, dec8_overflow, sub8_result, sub8_flags]; rfl
  case neg =>
    refine Prod.ext (sub8_result 0x00#8 m f).symm ?_
    rw [neg8, neg8_overflow, neg8_borrow, sub8_flags]
  case test =>
    rw [sub8_flags, BitVec.sub_zero, Ccr.test]
    simp
  case com => rw [com8, sub_eq_xor_ff]; rfl

/-! ### The results of the shifts -/

theorem lsl8_result (m : Byte) (f : Ccr) : lsl8 m f = (m <<< 1, f.shift8 (m <<< 1) (m.getLsbD 7)) := by
  have shifted : ∀ m : Byte, (m.extractLsb' 0 7 ++ 0#1 : Byte) = m <<< 1 := by decide
  rw [lsl8, shifted]

theorem lsr8_result (m : Byte) (f : Ccr) : lsr8 m f = (m >>> 1, f.shift8 (m >>> 1) (m.getLsbD 0)) := by
  have shifted : ∀ m : Byte, (0#1 ++ m.extractLsb' 1 7 : Byte) = m >>> 1 := by decide
  rw [lsr8, shifted]

theorem asr8_result (m : Byte) (f : Ccr) :
    asr8 m f = (m.sshiftRight 1, f.shift8 (m.sshiftRight 1) (m.getLsbD 0)) := by
  have shifted : ∀ m : Byte, (m.extractLsb' 7 1 ++ m.extractLsb' 1 7 : Byte) = m.sshiftRight 1 := by decide
  rw [asr8, shifted]

theorem rol8_result (m : Byte) (f : Ccr) : rol8 m f = (m <<< 1 ||| BitVec.ofNat 8 f.c.toNat,
    f.shift8 (m <<< 1 ||| BitVec.ofNat 8 f.c.toNat) (m.getLsbD 7)) := by
  have rotated : ∀ (m : Byte) (c : Bool),
      (m.extractLsb' 0 7 ++ BitVec.ofBool c : Byte) = m <<< 1 ||| BitVec.ofNat 8 c.toNat := by decide
  rw [rol8, rotated]

theorem ror8_result (m : Byte) (f : Ccr) : ror8 m f = (m >>> 1 ||| BitVec.ofNat 8 (128 * f.c.toNat),
    f.shift8 (m >>> 1 ||| BitVec.ofNat 8 (128 * f.c.toNat)) (m.getLsbD 0)) := by
  have rotated : ∀ (m : Byte) (c : Bool),
      (BitVec.ofBool c ++ m.extractLsb' 1 7 : Byte) = m >>> 1 ||| BitVec.ofNat 8 (128 * c.toNat) := by decide
  rw [ror8, rotated]

theorem lsl16_result (m : Word) (f : Ccr) : lsl16 m f = (m <<< 1, f.shift16 (m <<< 1) (m.getLsbD 15)) := by
  have shifted : (m.extractLsb' 0 15 ++ 0#1 : Word) = m <<< 1 := by
    apply BitVec.eq_of_getLsbD_eq
    intro k hk
    simp only [BitVec.getLsbD_append, BitVec.getLsbD_extractLsb', BitVec.getLsbD_shiftLeft]
    grind
  rw [lsl16, shifted]

theorem lsr16_result (m : Word) (f : Ccr) : lsr16 m f = (m >>> 1, f.shift16 (m >>> 1) (m.getLsbD 0)) := by
  have shifted : (0#1 ++ m.extractLsb' 1 15 : Word) = m >>> 1 := by
    apply BitVec.eq_of_getLsbD_eq
    intro k hk
    simp only [BitVec.getLsbD_append, BitVec.getLsbD_extractLsb', BitVec.getLsbD_ushiftRight]
    grind
  rw [lsr16, shifted]

/-! ### Shifts of numbers -/

theorem toNat_decide (p : Prop) [Decidable p] : (decide p).toNat = if p then 1 else 0 := by
  split_ifs with h <;> simp [h]

theorem toNat_getLsbD0 {w : Nat} (m : BitVec w) : (m.getLsbD 0).toNat = m.toNat % 2 := by
  rw [BitVec.getLsbD, Nat.testBit_zero, toNat_decide]
  split_ifs <;> omega

theorem toNat_getLsbD7 (m : Byte) : (m.getLsbD 7).toNat = if 128 ≤ m.toNat then 1 else 0 := by
  rw [← msb_eq_getLsbD7, msb8_eq_decide, toNat_decide]

theorem toNat_getLsbD15 (m : Word) : (m.getLsbD 15).toNat = if 32768 ≤ m.toNat then 1 else 0 := by
  rw [← msb_eq_getLsbD15, msb16_eq_decide, toNat_decide]

/-- The bit that a left shift loses is the carry of doubling. -/
theorem toNat_lsl8 (m : Byte) : (m <<< 1).toNat + 256 * (m.getLsbD 7).toNat = 2 * m.toNat := by
  have m_lt : m.toNat < 256 := m.isLt
  rw [toNat_getLsbD7, BitVec.toNat_shiftLeft, Nat.shiftLeft_eq]
  split_ifs <;> omega

theorem toNat_lsl16 (m : Word) : (m <<< 1).toNat + 65536 * (m.getLsbD 15).toNat = 2 * m.toNat := by
  have m_lt : m.toNat < 65536 := m.isLt
  rw [toNat_getLsbD15, BitVec.toNat_shiftLeft, Nat.shiftLeft_eq]
  split_ifs <;> omega

/-- The bit that a right shift loses is the remainder of halving. -/
theorem toNat_lsr {w : Nat} (m : BitVec w) : 2 * (m >>> 1).toNat + (m.getLsbD 0).toNat = m.toNat := by
  rw [toNat_getLsbD0, BitVec.toNat_ushiftRight, Nat.shiftRight_eq_div_pow]
  omega

theorem toInt_asr8 (m : Byte) : 2 * (m.sshiftRight 1).toInt + (m.getLsbD 0).toNat = m.toInt := by
  rw [toNat_getLsbD0, BitVec.toInt_sshiftRight, Int.shiftRight_eq_div_pow, toInt8_eq]
  split_ifs <;> omega

theorem msb_lsr {w : Nat} (m : BitVec w) : (m >>> 1).msb = false := by
  simp [BitVec.msb_ushiftRight]

/-- Settles O32. -/
theorem shiftsAsArithmetic : Obligations.ShiftsAsArithmetic := by
  refine ⟨fun f r out => ?flags8, fun f r out => ?flags16, fun m f => ?eight, fun m f => ?sixteen⟩
  case flags8 => rw [← msb_eq_getLsbD7]; rfl
  case flags16 => rw [← msb_eq_getLsbD15]; rfl
  case eight =>
    rw [lsl8_result, lsr8_result, asr8_result]
    exact ⟨toNat_lsl8 m, toNat_lsr m, toInt_asr8 m, rfl, msb_lsr m,
      (congrArg (· ^^ m.getLsbD 0) (msb_lsr m)).trans (Bool.false_xor _), rfl⟩
  case sixteen =>
    rw [lsl16_result, lsr16_result]
    exact ⟨toNat_lsl16 m, toNat_lsr m, rfl, msb_lsr m,
      (congrArg (· ^^ m.getLsbD 0) (msb_lsr m)).trans (Bool.false_xor _)⟩

end Sys2Proof.Machine
end

section
/-! What an instruction of each shape does (30_encoding.md R109 to R112): its outcome from the outcome of its operand,
in the state before it. -/

namespace Sys2Proof.Machine

open Sys2Proof

/-! ### The state after a source operand -/

theorem eq_of_read8At_ok {a : Word} {v : Byte} {s t : State} (h : read8At (.ok (a, s)) = .ok (v, t)) : t = s := by
  obtain ⟨_, same, -⟩ := (read8At_ok _ v t).1 h
  cases same; rfl

theorem Src8.eq_stepOf_of_read {src : Src8} {next : Word} {s t : State} {v : Byte}
    (h : Src8.read src next s = .ok (v, t)) : t = stepOf src.form s := by
  cases src with
  | imm => cases h; rfl
  | dir | ext => exact eq_of_read8At_ok h
  | idx f => obtain ⟨ea, evaluated, -⟩ := (read8At_ok _ v t).1 h; exact IdxForm.eq_stepOf_of_ea evaluated

theorem Src16.eq_stepOf_of_read {src : Src16} {next : Word} {s t : State} {v : Word}
    (h : Src16.read src next s = .ok (v, t)) : t = stepOf src.form s := by
  cases src with
  | imm => cases h; rfl
  | dir | ext => exact eq_of_read16At_ok h
  | idx f => obtain ⟨ea, evaluated, -⟩ := (read16At_ok _ v t).1 h; exact IdxForm.eq_stepOf_of_ea evaluated

theorem MovSrc8.eq_stepOf_of_read {src : MovSrc8} {next : Word} {s t : State} {v : Byte}
    (h : MovSrc8.read src next s = .ok (v, t)) : t = stepOf src.form s := by
  cases src with
  | imm => cases h; rfl
  | ext => exact eq_of_read8At_ok h
  | idx f => obtain ⟨ea, evaluated, -⟩ := (read8At_ok _ v t).1 h; exact IdxForm.eq_stepOf_of_ea evaluated

theorem MovSrc16.eq_stepOf_of_read {src : MovSrc16} {next : Word} {s t : State} {v : Word}
    (h : MovSrc16.read src next s = .ok (v, t)) : t = stepOf src.form s := by
  cases src with
  | imm => cases h; rfl
  | ext => exact eq_of_read16At_ok h
  | idx f => obtain ⟨ea, evaluated, -⟩ := (read16At_ok _ v t).1 h; exact IdxForm.eq_stepOf_of_ea evaluated

theorem MovDst.eq_stepOf_of_ea {op : MovDst} {next ea : Word} {s t : State} (h : MovDst.ea op next s = .ok (ea, t)) :
    t = stepOf op.form s := by
  cases op with
  | ext => cases h; rfl
  | idx f => exact IdxForm.eq_stepOf_of_ea h

theorem stepped_stepOf (f : Option IdxForm) (s : State) : Stepped s (stepOf f s) := by
  cases f with
  | none => exact .inl rfl
  | some f =>
    cases f with
    | auto r m n => exact .inr ⟨r, _, rfl⟩
    | _ => exact .inl rfl

/-- An operand that does not step `r` leaves it as it was. -/
theorem stepOf_auto_of_notStepping {r : AutoReg} {f : Option IdxForm} (h : notStepping r f = true) (s : State) :
    (stepOf f s).auto r = s.auto r := by
  cases f with
  | none => rfl
  | some f =>
    cases f with
    | auto q m n =>
      have other : q ≠ r := by simpa [notStepping, IdxForm.stepped] using h
      exact State.setAuto_other s q r _ other.symm
    | _ => rfl

theorem Stepped.d_eq {s t : State} (h : Stepped s t) : t.d = s.d := by
  obtain ⟨a_eq, b_eq, -⟩ := h.keeps
  rw [State.d, State.d, a_eq, b_eq]

/-! ### Writes -/

theorem State.writeByte_of_writable {s : State} {a : Word} (mapped : s.params.mapped a = true)
    (data : s.params.isCode a = false) (v : Byte) : s.writeByte a v = .ok (s.setMem (Memory.set s.mem a v)) :=
  (State.writeByte_ok s _ a v).2 ⟨mapped, data, rfl⟩

theorem State.writeWord_of_writable {s : State} {a : Word} (mapped : s.params.mapped a = true)
    (data : s.params.isCode a = false) (mapped' : s.params.mapped (a + 1#16) = true)
    (data' : s.params.isCode (a + 1#16) = false) (v : Word) :
    s.writeWord a v = .ok (s.setMem (Memory.set (Memory.set s.mem a (hiByte v)) (a + 1#16) (loByte v))) :=
  (State.writeWord_ok s _ a v).2 ⟨mapped, data, mapped', data', rfl⟩

/-- What `writeWord` leaves in memory. -/
theorem Memory.get_set_word (m : Memory) (a v : Word) :
    Memory.get (Memory.set (Memory.set m a (hiByte v)) (a + 1#16) (loByte v)) a = some (hiByte v) ∧
    Memory.get (Memory.set (Memory.set m a (hiByte v)) (a + 1#16) (loByte v)) (a + 1#16) = some (loByte v) ∧
    ∀ b, b ≠ a → b ≠ a + 1#16 →
      Memory.get (Memory.set (Memory.set m a (hiByte v)) (a + 1#16) (loByte v)) b = Memory.get m b := by
  refine ⟨?_, Memory.get_set_same _ _ _, fun b hb hb' => ?_⟩
  · rw [Memory.get_set_other _ _ _ _ (ne_add_one a), Memory.get_set_same]
  · rw [Memory.get_set_other _ _ _ _ hb', Memory.get_set_other _ _ _ _ hb]

theorem State.mapped_of_readByte {s : State} {a : Word} {v : Byte} (h : s.readByte a = .ok v) :
    s.params.mapped a = true :=
  ((State.readByte_ok s a v).1 h).1

theorem State.writeByte_error_congr {s t : State} {a : Word} {v w : Byte} {e : Fault} (params_eq : t.params = s.params)
    (h : s.writeByte a v = .error e) : t.writeByte a w = .error e := by
  rw [State.writeByte_error] at h ⊢
  rwa [params_eq]

theorem State.writeWord_error_high {s t : State} {a v : Word} {w : Byte} {e : Fault} (params_eq : t.params = s.params)
    (h : s.writeByte a w = .error e) : t.writeWord a v = .error e := by
  rw [State.writeWord, State.writeByte_error_congr params_eq h]

theorem State.writeWord_error_low {s t : State} {a v : Word} {w : Byte} {e : Fault} (params_eq : t.params = s.params)
    (mapped : s.params.mapped a = true) (data : s.params.isCode a = false)
    (h : s.writeByte (a + 1#16) w = .error e) : t.writeWord a v = .error e := by
  rw [State.writeWord, State.writeByte_of_writable (params_eq ▸ mapped) (params_eq ▸ data)]
  exact State.writeByte_error_congr params_eq h

/-! ### Admitted instructions -/

theorem admitted_of_wellFormed {i : Instr} (h : i.wellFormed = true) (o : Out) : admitted i o = o := if_pos h

/-! ### Inherent instructions -/

theorem IsInherent.of_eq {i : Instr} {f g : State → State} (exec_eq : ∀ s, exec i s = inherent i f s)
    (same : ∀ s, f s = g s) : IsInherent i g := by
  intro s
  rw [exec_eq, inherent, same]
  rfl

/-! ### Source operands -/

theorem IsSource8.of_exec {mk : Src8 → Instr} {f : Byte → State → State}
    (exec_eq : ∀ src s, (mk src).wellFormed = true → exec (mk src) s = withSrc8 (mk src) src f s) : IsSource8 mk f := by
  refine fun src s wf => ⟨fun v t read => ?_, fun e fault => ?_⟩ <;> rw [exec_eq src s wf, withSrc8]
  · rw [read, Src8.eq_stepOf_of_read read]; rfl
  · rw [fault]; rfl

theorem IsSource16.of_exec {mk : Src16 → Instr} {f : Word → State → State}
    (exec_eq : ∀ src s, (mk src).wellFormed = true → exec (mk src) s = withSrc16 (mk src) src f s) :
    IsSource16 mk f := by
  refine fun src s wf => ⟨fun v t read => ?_, fun e fault => ?_⟩ <;> rw [exec_eq src s wf, withSrc16]
  · rw [read, Src16.eq_stepOf_of_read read]; rfl
  · rw [fault]; rfl

/-! ### Stores -/

theorem IsStore8.of_exec {mk : MemOp → Instr} {reg : State → Byte} {flags : Byte → Ccr → Ccr}
    (exec_eq : ∀ op s, (mk op).wellFormed = true → exec (mk op) s = store8 (mk op) op reg s)
    (flags_eq : ∀ v f, f.logic8 v = flags v f)
    (reg_eq : ∀ op s, (mk op).wellFormed = true → reg (stepOf op.form s) = reg s) : IsStore8 mk reg flags := by
  intro op s wf
  have stepped := stepped_stepOf op.form s
  obtain ⟨-, -, -, ccr_eq, mem_eq, params_eq, -⟩ := stepped.keeps
  have unfolded := exec_eq op s wf
  rw [store8] at unfolded
  refine ⟨fun ea t evaluated mapped data => ?stored, fun ea t evaluated mapped code => ?toCode,
    fun ea t evaluated unmapped => ?unmapped, fun e fault => ?noAddress⟩
  case noAddress => rw [unfolded, fault]; rfl
  all_goals
    obtain rfl := MemOp.eq_stepOf_of_ea evaluated
    rw [evaluated] at unfolded
    rw [unfolded]
    simp only [orFault]
  case stored =>
    rw [State.writeByte_of_writable (params_eq ▸ mapped) (params_eq ▸ data), reg_eq op s wf, mem_eq]
    refine ⟨_, ?_, Memory.get_set_same _ _ _, fun a => Memory.get_set_other _ _ _ _⟩
    rw [← flags_eq, ← ccr_eq]; rfl
  case toCode =>
    rw [(State.writeByte_error _ ea _ _).2 (.inr ⟨params_eq ▸ mapped, params_eq ▸ code, rfl⟩)]
  case unmapped => rw [(State.writeByte_error _ ea _ _).2 (.inl ⟨params_eq ▸ unmapped, rfl⟩)]

theorem IsStore16.of_exec {mk : MemOp → Instr} {reg : State → Word} {flags : Word → Ccr → Ccr}
    (exec_eq : ∀ op s, (mk op).wellFormed = true → exec (mk op) s = store16 (mk op) op reg s)
    (flags_eq : ∀ v f, f.logic16 v = flags v f)
    (reg_eq : ∀ op s, (mk op).wellFormed = true → reg (stepOf op.form s) = reg s) : IsStore16 mk reg flags := by
  intro op s wf
  have stepped := stepped_stepOf op.form s
  obtain ⟨-, -, -, ccr_eq, mem_eq, params_eq, -⟩ := stepped.keeps
  have unfolded := exec_eq op s wf
  rw [store16] at unfolded
  refine ⟨fun ea t evaluated mapped data mapped' data' => ?stored, fun ea t e evaluated fault => ?high,
    fun ea t e evaluated mapped data fault => ?low, fun e fault => ?noAddress⟩
  case noAddress => rw [unfolded, fault]; rfl
  all_goals
    obtain rfl := MemOp.eq_stepOf_of_ea evaluated
    rw [evaluated] at unfolded
    rw [unfolded]
    simp only [orFault]
  case stored =>
    rw [State.writeWord_of_writable (params_eq ▸ mapped) (params_eq ▸ data) (params_eq ▸ mapped') (params_eq ▸ data'),
      reg_eq op s wf, mem_eq]
    refine ⟨_, ?_, Memory.get_set_word _ _ _⟩
    rw [← flags_eq, ← ccr_eq]; rfl
  case high => rw [State.writeWord_error_high params_eq fault]
  case low => rw [State.writeWord_error_low params_eq mapped data fault]

/-! ### Read-modify-write -/

section modifyAt

variable {i : Instr} {f : Byte → Ccr → Byte × Ccr} {s t : State} {r : Except Fault (Word × State)} {ea : Word} {v : Byte}
  (evaluated : r = .ok (ea, t)) (stepped : Stepped s t)
include evaluated stepped

theorem modifyAt_of_writable (read : s.readByte ea = .ok v) (data : s.params.isCode ea = false) :
    ∃ m, modifyAt i r f s = .next { t with mem := m, ccr := (f v s.ccr).2, pc := s.next i } ∧
      Memory.get m ea = some (f v s.ccr).1 ∧ ∀ a, a ≠ ea → Memory.get m a = Memory.get s.mem a := by
  obtain ⟨-, -, -, ccr_eq, mem_eq, params_eq, -⟩ := stepped.keeps
  have mapped := State.mapped_of_readByte read
  subst evaluated
  simp only [modifyAt, orFault, stepped.readByte_eq, read, ccr_eq]
  rw [State.writeByte_of_writable (params_eq ▸ mapped) (params_eq ▸ data), mem_eq]
  exact ⟨_, rfl, Memory.get_set_same _ _ _, fun a => Memory.get_set_other _ _ _ _⟩

theorem modifyAt_of_code (read : s.readByte ea = .ok v) (code : s.params.isCode ea = true) :
    modifyAt i r f s = .fault (.storeToCode ea) := by
  obtain ⟨-, -, -, -, -, params_eq, -⟩ := stepped.keeps
  have mapped := State.mapped_of_readByte read
  subst evaluated
  simp only [modifyAt, orFault, stepped.readByte_eq, read]
  rw [(State.writeByte_error _ ea _ _).2 (.inr ⟨params_eq ▸ mapped, params_eq ▸ code, rfl⟩)]

theorem modifyAt_of_unreadable {e : Fault} (fault : s.readByte ea = .error e) : modifyAt i r f s = .fault e := by
  subst evaluated
  simp only [modifyAt, orFault, stepped.readByte_eq, fault]

end modifyAt

theorem IsModify.of_exec {mk : RmwOp → Instr} {f g : Byte → Ccr → Byte × Ccr}
    (exec_eq : ∀ op s, exec (mk op) s = modify (mk op) op f s) (same : ∀ v c, f v c = g v c) : IsModify mk g := by
  obtain rfl : f = g := funext fun v => funext (same v)
  intro op s
  rw [exec_eq, modify]
  refine ⟨fun ea t v evaluated read data => ?_, fun ea t v evaluated read code => ?_,
    fun ea t e evaluated fault => ?_, fun e fault => ?_⟩
  · obtain rfl := RmwOp.eq_stepOf_of_ea evaluated
    exact modifyAt_of_writable evaluated (stepped_stepOf _ s) read data
  · exact modifyAt_of_code evaluated (RmwOp.ea_stepped _ _ _ _ _ evaluated) read code
  · exact modifyAt_of_unreadable evaluated (RmwOp.ea_stepped _ _ _ _ _ evaluated) fault
  · rw [fault]; rfl

/-! ### Branches -/

theorem branch_eq (i : Instr) (taken : Bool) (offset : Word) (s : State) : branch i taken offset s =
    .next { s with pc := s.pc + BitVec.ofNat 16 i.length + (if taken then offset else 0#16) } := by
  cases taken
  · exact congrArg (fun a => Host.Outcome.next (s.setPc a)) (BitVec.add_zero _).symm
  · rfl

theorem IsBranch.of_exec {i : Instr} {cond : Ccr → Bool} {offset : Word}
    (exec_eq : ∀ s, exec i s = branch i (cond s.ccr) offset s) : IsBranch i cond offset :=
  fun s => (exec_eq s).trans (branch_eq i (cond s.ccr) offset s)

theorem IsBranch.of_set {i : Instr} {flag : Ccr → Bool} {offset : Word}
    (exec_eq : ∀ s, exec i s = branch i (flag s.ccr) offset s) : IsBranch i (fun f => flag f == true) offset :=
  .of_exec fun s => by rw [exec_eq, beq_true]

theorem IsBranch.of_clear {i : Instr} {flag : Ccr → Bool} {offset : Word}
    (exec_eq : ∀ s, exec i s = branch i (!flag s.ccr) offset s) : IsBranch i (fun f => flag f == false) offset :=
  .of_exec fun s => by rw [exec_eq, beq_false]

end Sys2Proof.Machine
end

section
/-! Each instruction by its shape: its operation, and that it does nothing else (40_data_transfer.md to 45_branch.md). -/

namespace Sys2Proof.Machine

open Sys2Proof

/-! ### Loads and stores -/

theorem exec_ldx {src : Src16} (wf : (Instr.ldx src).wellFormed = true) (s : State) : exec (.ldx src) s =
    withSrc16 (.ldx src) src (fun v t => (t.setX v).setCcr (t.ccr.logic16 v)) s := admitted_of_wellFormed wf _

theorem exec_ldy {src : Src16} (wf : (Instr.ldy src).wellFormed = true) (s : State) : exec (.ldy src) s =
    withSrc16 (.ldy src) src (fun v t => (t.setY v).setCcr (t.ccr.logic16 v)) s := admitted_of_wellFormed wf _

theorem exec_lds {src : Src16} (wf : (Instr.lds src).wellFormed = true) (s : State) : exec (.lds src) s =
    withSrc16 (.lds src) src (fun v t => (t.setSp v).setCcr (t.ccr.logic16 v)) s := admitted_of_wellFormed wf _

theorem exec_stx {op : MemOp} (wf : (Instr.stx op).wellFormed = true) (s : State) :
    exec (.stx op) s = store16 (.stx op) op State.x s := admitted_of_wellFormed wf _

theorem exec_sty {op : MemOp} (wf : (Instr.sty op).wellFormed = true) (s : State) :
    exec (.sty op) s = store16 (.sty op) op State.y s := admitted_of_wellFormed wf _

theorem exec_sts {op : MemOp} (wf : (Instr.sts op).wellFormed = true) (s : State) :
    exec (.sts op) s = store16 (.sts op) op State.sp s := admitted_of_wellFormed wf _

/-- Settles O36. -/
theorem loads : Obligations.Loads :=
  ⟨.of_exec fun _ _ _ => rfl, .of_exec fun _ _ _ => rfl, .of_exec fun _ _ _ => rfl, .of_exec fun _ s wf => exec_ldx wf s,
    .of_exec fun _ s wf => exec_ldy wf s, .of_exec fun _ s wf => exec_lds wf s⟩

/-- Settles O37: an auto form steps neither an accumulator nor, where it is admitted, the stored register. -/
theorem stores : Obligations.Stores := by
  refine ⟨.of_exec (fun _ _ _ => rfl) (fun _ _ => rfl) fun op s _ => ?a,
    .of_exec (fun _ _ _ => rfl) (fun _ _ => rfl) fun op s _ => ?b,
    .of_exec (fun _ _ _ => rfl) (fun _ _ => rfl) fun op s _ => (stepped_stepOf op.form s).d_eq,
    .of_exec (fun _ s wf => exec_stx wf s) (fun _ _ => rfl) fun op s wf => ?x,
    .of_exec (fun _ s wf => exec_sty wf s) (fun _ _ => rfl) fun op s wf => ?y,
    .of_exec (fun _ s wf => exec_sts wf s) (fun _ _ => rfl) fun op s wf => ?sp⟩
  case a => exact (stepped_stepOf op.form s).keeps.1
  case b => exact (stepped_stepOf op.form s).keeps.2.1
  case x => exact stepOf_auto_of_notStepping (r := .x) wf s
  case y => exact stepOf_auto_of_notStepping (r := .y) wf s
  case sp => exact stepOf_auto_of_notStepping (r := .sp) wf s

/-! ### The CCR -/

theorem Ccr.transfer_eq (sticky : Bool) (f : Ccr) (v : Byte) : f.transfer sticky v =
    { s := v.getLsbD 7, x := v.getLsbD 6 && (!sticky || f.x), h := v.getLsbD 5, i := v.getLsbD 4,
      n := v.getLsbD 3, z := v.getLsbD 2, v := v.getLsbD 1, c := v.getLsbD 0 } := by
  cases sticky <;> simp [Ccr.transfer, Ccr.ofByte]

theorem Ccr.and_eq (f : Ccr) (mask : Byte) : f.and mask =
    { s := f.s && mask.getLsbD 7, x := f.x && mask.getLsbD 6, h := f.h && mask.getLsbD 5,
      i := f.i && mask.getLsbD 4, n := f.n && mask.getLsbD 3, z := f.z && mask.getLsbD 2,
      v := f.v && mask.getLsbD 1, c := f.c && mask.getLsbD 0 } := by
  obtain ⟨hs, hx, hh, hi, hn, hz, hv, hc⟩ := f.getLsbD_toByte
  simp only [Ccr.and, Ccr.ofByte, BitVec.getLsbD_and, hs, hx, hh, hi, hn, hz, hv, hc]

theorem Ccr.or_eq (sticky : Bool) (f : Ccr) (mask : Byte) : f.or sticky mask =
    { s := f.s || mask.getLsbD 7, x := f.x || (!sticky && mask.getLsbD 6), h := f.h || mask.getLsbD 5,
      i := f.i || mask.getLsbD 4, n := f.n || mask.getLsbD 3, z := f.z || mask.getLsbD 2,
      v := f.v || mask.getLsbD 1, c := f.c || mask.getLsbD 0 } := by
  obtain ⟨hs, hx, hh, hi, hn, hz, hv, hc⟩ := f.getLsbD_toByte
  cases sticky <;> simp only [Ccr.or, Ccr.ofByte, BitVec.getLsbD_or, hs, hx, hh, hi, hn, hz, hv, hc, Bool.not_true,
    Bool.not_false, Bool.true_and, Bool.false_and, Bool.or_false, Bool.false_eq_true, if_true, if_false]

/-- Settles O38. -/
theorem transfers : Obligations.Transfers :=
  ⟨fun _ => rfl, fun _ => rfl, .of_eq (fun _ => rfl) fun s => congrArg s.setCcr (Ccr.transfer_eq _ s.ccr s.a),
    fun _ => rfl⟩

/-- Settles O47. -/
theorem ccrInstructions : Obligations.CcrInstructions :=
  ⟨fun mask => .of_eq (fun _ => rfl) fun s => congrArg s.setCcr (Ccr.and_eq s.ccr mask),
    fun mask => .of_eq (fun _ => rfl) fun s => congrArg s.setCcr (Ccr.or_eq _ s.ccr mask),
    fun _ => rfl, fun _ => rfl, fun _ => rfl⟩

theorem Ccr.transfer_toByte (sticky : Bool) (f : Ccr) : f.transfer sticky f.toByte = f := by
  rw [Ccr.transfer, Ccr.ofByte_toByte]
  cases sticky
  · rfl
  · simp

/-- Settles O35. -/
theorem ccrBytes : Obligations.CcrBytes := by
  refine ⟨fun f => ?_, Ccr.toByte_ofByte, fun s => ⟨_, rfl, Ccr.transfer_toByte s.params.xbitSticky s.ccr⟩⟩
  obtain ⟨hs, hx, hh, hi, hn, hz, hv, hc⟩ := f.getLsbD_toByte
  exact ⟨hs, hx, hh, hi, hn, hz, hv, hc, f.ofByte_toByte⟩

/-! ### Shifts and rotates -/

/-- Settles O40. -/
theorem memoryShifts : Obligations.MemoryShifts :=
  ⟨.of_exec (fun _ _ => rfl) lsl8_result, .of_exec (fun _ _ => rfl) lsl8_result, .of_exec (fun _ _ => rfl) lsr8_result,
    .of_exec (fun _ _ => rfl) asr8_result, .of_exec (fun _ _ => rfl) rol8_result, .of_exec (fun _ _ => rfl) ror8_result⟩

theorem forall_mem_pair {p : Instr → Prop} {i j : Instr} (hi : p i) (hj : p j) : ∀ k ∈ [i, j], p k :=
  List.forall_mem_cons.2 ⟨hi, List.forall_mem_singleton.2 hj⟩

/-- Settles O41. -/
theorem registerShifts : Obligations.RegisterShifts :=
  ⟨forall_mem_pair (.of_eq (fun _ => rfl) fun s => congrArg s.putA (lsl8_result s.a s.ccr))
      (.of_eq (fun _ => rfl) fun s => congrArg s.putA (lsl8_result s.a s.ccr)),
    forall_mem_pair (.of_eq (fun _ => rfl) fun s => congrArg s.putB (lsl8_result s.b s.ccr))
      (.of_eq (fun _ => rfl) fun s => congrArg s.putB (lsl8_result s.b s.ccr)),
    forall_mem_pair (.of_eq (fun _ => rfl) fun s => by rw [lsl16_result]; rfl)
      (.of_eq (fun _ => rfl) fun s => by rw [lsl16_result]; rfl),
    .of_eq (fun _ => rfl) fun s => congrArg s.putA (lsr8_result s.a s.ccr),
    .of_eq (fun _ => rfl) fun s => congrArg s.putB (lsr8_result s.b s.ccr),
    .of_eq (fun _ => rfl) fun s => by rw [lsr16_result]; rfl,
    .of_eq (fun _ => rfl) fun s => congrArg s.putA (asr8_result s.a s.ccr),
    .of_eq (fun _ => rfl) fun s => congrArg s.putB (asr8_result s.b s.ccr),
    .of_eq (fun _ => rfl) fun s => congrArg s.putA (rol8_result s.a s.ccr),
    .of_eq (fun _ => rfl) fun s => congrArg s.putB (rol8_result s.b s.ccr),
    .of_eq (fun _ => rfl) fun s => congrArg s.putA (ror8_result s.a s.ccr),
    .of_eq (fun _ => rfl) fun s => congrArg s.putB (ror8_result s.b s.ccr)⟩

/-! ### Addition and subtraction -/

/-- Settles O42. -/
theorem additions : Obligations.Additions :=
  ⟨fun _ => rfl, .of_exec fun _ _ _ => rfl, .of_exec fun _ _ _ => rfl, .of_exec fun _ _ _ => rfl,
    .of_exec fun _ _ _ => rfl, .of_exec fun _ _ _ => rfl⟩

/-- Settles O43. -/
theorem subtractions : Obligations.Subtractions :=
  ⟨fun _ => rfl, .of_exec fun _ _ _ => rfl, .of_exec fun _ _ _ => rfl, .of_exec fun _ _ _ => rfl,
    .of_exec fun _ _ _ => rfl, .of_exec fun _ _ _ => rfl⟩

/-- Settles O45. -/
theorem incrementsDecrements : Obligations.IncrementsDecrements :=
  ⟨.of_exec (fun _ _ => rfl) fun _ _ => rfl, .of_exec (fun _ _ => rfl) fun _ _ => rfl, fun _ => rfl, fun _ => rfl,
    fun _ => rfl, fun _ => rfl, fun _ => rfl, fun _ => rfl⟩

/-! ### Logic -/

/-- Settles O46. -/
theorem logicOnAccumulators : Obligations.LogicOnAccumulators :=
  ⟨.of_exec fun _ _ _ => rfl, .of_exec fun _ _ _ => rfl, .of_exec fun _ _ _ => rfl, .of_exec fun _ _ _ => rfl,
    .of_exec fun _ _ _ => rfl, .of_exec fun _ _ _ => rfl, .of_exec fun _ _ _ => rfl, .of_exec fun _ _ _ => rfl⟩

theorem com8_eq (m : Byte) (f : Ccr) :
    com8 m f = (~~~m, { f with n := (~~~m).msb, z := decide (~~~m = 0#8), v := false, c := true }) := by
  have complement : ∀ m : Byte, 0xFF#8 - m = ~~~m := by decide
  rw [com8, complement]; rfl

theorem neg8_eq (m : Byte) (f : Ccr) : neg8 m f = (-m, { f with
    n := (-m).msb, z := decide (-m = 0#8), v := decide (-m = 0x80#8), c := decide (-m ≠ 0#8) }) := by
  rw [neg8, BitVec.zero_sub]; rfl

/-- Settles O48. -/
theorem complements : Obligations.Complements :=
  ⟨.of_exec (fun _ _ => rfl) com8_eq, .of_eq (fun _ => rfl) fun s => congrArg s.putA (com8_eq s.a s.ccr),
    .of_eq (fun _ => rfl) fun s => congrArg s.putB (com8_eq s.b s.ccr), .of_exec (fun _ _ => rfl) neg8_eq,
    .of_eq (fun _ => rfl) fun s => congrArg s.putA (neg8_eq s.a s.ccr),
    .of_eq (fun _ => rfl) fun s => congrArg s.putB (neg8_eq s.b s.ccr)⟩

theorem exec_bset {op : MemOp} {mask : Byte} (wf : (Instr.bset op mask).wellFormed = true) (s : State) :
    exec (.bset op mask) s = modifyBits (.bset op mask) op (fun m f => logicResult (m ||| mask) f) s :=
  admitted_of_wellFormed wf _

theorem exec_bclr {op : MemOp} {mask : Byte} (wf : (Instr.bclr op mask).wellFormed = true) (s : State) :
    exec (.bclr op mask) s = modifyBits (.bclr op mask) op (fun m f => logicResult (m &&& ~~~mask) f) s :=
  admitted_of_wellFormed wf _

/-- Settles O49. -/
theorem bitSetAndClear : Obligations.BitSetAndClear := by
  refine fun op mask s t ea v => ⟨fun wf evaluated read data => ?set, fun wf evaluated read data => ?clear⟩
  all_goals obtain rfl := MemOp.eq_stepOf_of_ea evaluated
  case set =>
    rw [exec_bset wf]
    exact modifyAt_of_writable evaluated (stepped_stepOf _ s) read data
  case clear =>
    rw [exec_bclr wf]
    exact modifyAt_of_writable evaluated (stepped_stepOf _ s) read data

/-! ### Compares and tests -/

theorem exec_cps {src : Src16} (wf : (Instr.cps src).wellFormed = true) (s : State) : exec (.cps src) s =
    withSrc16 (.cps src) src (fun v t => t.setCcr (sub16 t.sp v t.ccr).2) s := admitted_of_wellFormed wf _

theorem exec_cpx {src : Src16} (wf : (Instr.cpx src).wellFormed = true) (s : State) : exec (.cpx src) s =
    withSrc16 (.cpx src) src (fun v t => t.setCcr (sub16 t.x v t.ccr).2) s := admitted_of_wellFormed wf _

theorem exec_cpy {src : Src16} (wf : (Instr.cpy src).wellFormed = true) (s : State) : exec (.cpy src) s =
    withSrc16 (.cpy src) src (fun v t => t.setCcr (sub16 t.y v t.ccr).2) s := admitted_of_wellFormed wf _

theorem exec_tst {op : RmwOp} {s t : State} {v : Byte} (read : RmwOp.read op (s.next (.tst op)) s = .ok (v, t)) :
    exec (.tst op) s = .next ((t.setCcr (t.ccr.test v)).setPc (s.next (.tst op))) := by
  change execTst op s = _
  rw [execTst, read]; rfl

/-- Settles O50. -/
theorem comparesAndTests : Obligations.ComparesAndTests := by
  refine ⟨fun _ => rfl, .of_exec fun _ _ _ => rfl, .of_exec fun _ _ _ => rfl, .of_exec fun _ _ _ => rfl,
    .of_exec fun _ s wf => exec_cps wf s, .of_exec fun _ s wf => exec_cpx wf s, .of_exec fun _ s wf => exec_cpy wf s,
    fun op s t ea v evaluated read => ?tst, fun _ => rfl, fun _ => rfl⟩
  obtain rfl := RmwOp.eq_stepOf_of_ea evaluated
  have stepped := stepped_stepOf op.form s
  obtain ⟨-, -, -, ccr_eq, -⟩ := stepped.keeps
  rw [exec_tst ((read8At_of_ea evaluated stepped).1 v read), ccr_eq]
  rfl

/-! ### Branches -/

/-- Settles O51. -/
theorem shortBranches : Obligations.ShortBranches := fun _ =>
  ⟨.of_exec fun _ => rfl, .of_exec fun _ => rfl, .of_clear fun _ => rfl, .of_set fun _ => rfl, .of_set fun _ => rfl,
    .of_clear fun _ => rfl, .of_set fun _ => rfl, .of_clear fun _ => rfl, .of_set fun _ => rfl, .of_clear fun _ => rfl,
    .of_clear fun _ => rfl, .of_clear fun _ => rfl, .of_set fun _ => rfl, .of_set fun _ => rfl, .of_clear fun _ => rfl,
    .of_clear fun _ => rfl, .of_set fun _ => rfl, .of_set fun _ => rfl⟩

/-- Settles O52. -/
theorem longBranches : Obligations.LongBranches := fun _ =>
  ⟨.of_exec fun _ => rfl, .of_exec fun _ => rfl, .of_clear fun _ => rfl, .of_set fun _ => rfl, .of_set fun _ => rfl,
    .of_clear fun _ => rfl, .of_set fun _ => rfl, .of_clear fun _ => rfl, .of_set fun _ => rfl, .of_clear fun _ => rfl,
    .of_clear fun _ => rfl, .of_clear fun _ => rfl, .of_set fun _ => rfl, .of_set fun _ => rfl, .of_clear fun _ => rfl,
    .of_clear fun _ => rfl, .of_set fun _ => rfl, .of_set fun _ => rfl⟩

/-- No bit of the mask is 1 where the byte has 0. -/
theorem masked_bits_set (mask v : Byte) :
    ~~~v &&& mask = 0x00#8 ↔ ∀ k < 8, mask.getLsbD k = true → v.getLsbD k = true := by
  have bit (k : Nat) (hk : k < 8) :
      (~~~v &&& mask).getLsbD k = (0x00#8).getLsbD k ↔ (mask.getLsbD k = true → v.getLsbD k = true) := by
    rw [BitVec.getLsbD_and, BitVec.getLsbD_not, decide_eq_true hk, BitVec.getLsbD_zero]
    cases v.getLsbD k <;> cases mask.getLsbD k <;> decide
  exact ⟨fun h k hk => (bit k hk).1 (h ▸ rfl), fun h => BitVec.eq_of_getLsbD_eq fun k hk => (bit k hk).2 (h k hk)⟩

theorem exec_brset {op : MemOp} {mask rel m : Byte} {s t : State} (wf : (Instr.brset op mask rel).wellFormed = true)
    (read : read8At (MemOp.ea op (s.next (.brset op mask rel)) s) = .ok (m, t)) : exec (.brset op mask rel) s =
      branch (.brset op mask rel) (decide (~~~m &&& mask = 0x00#8)) (shortOffset rel) t := by
  change execBrset op mask rel s = _
  rw [execBrset, admitted_of_wellFormed wf, read]; rfl

/-- Settles O53. -/
theorem branchIfBitsSet : Obligations.BranchIfBitsSet := by
  intro op mask rel s t ea v wf evaluated read
  obtain rfl := MemOp.eq_stepOf_of_ea evaluated
  have stepped := stepped_stepOf op.form s
  obtain ⟨-, -, pc_eq, -⟩ := stepped.keeps
  refine ⟨decide (~~~v &&& mask = 0x00#8), decide_eq_true_iff.trans (masked_bits_set mask v), ?_⟩
  rw [exec_brset wf ((read8At_of_ea evaluated stepped).1 v read), branch_eq, pc_eq, shortOffset_eq_ofInt]

end Sys2Proof.Machine
end

section
/-! The instructions that leave flags free (92_eei_decisions.md D15, D16), second names (48_assembler_directives.md
R396), the state after reset and launch (70_reset_and_hazards.md R451), and single accesses (20_memory.md R60, R66). -/

namespace Sys2Proof.Machine

open Sys2Proof

/-! ### Free flags -/

/-- ABX and ABY change no flag but H, N, Z, V, C, and none at all where the setting says so. -/
theorem State.abxyFlags_eq (s : State) : ∃ f d, s.abxyFlags = { s with ccr := f, drawn := d } ∧
    f.s = s.ccr.s ∧ f.x = s.ccr.x ∧ f.i = s.ccr.i ∧ (s.params.abxyFlags = .unchanged → f = s.ccr) := by
  cases h : s.params.abxyFlags with
  | any =>
    exact ⟨{ s.ccr with h := s.freeFlag 0, n := s.freeFlag 1, z := s.freeFlag 2, v := s.freeFlag 3, c := s.freeFlag 4 },
      s.drawn + 5, by rw [State.abxyFlags, h], rfl, rfl, rfl, nofun⟩
  | unchanged => exact ⟨s.ccr, s.drawn, by rw [State.abxyFlags, h], rfl, rfl, rfl, fun _ => rfl⟩

theorem State.zAfterSp_eq (s : State) (r : Word) : ∃ z d,
    s.zAfterSp r = { s with ccr := { s.ccr with z := z }, drawn := d } ∧
    (s.params.incDec16Z = .source → z = decide (r = 0#16)) ∧ (s.params.incDec16Z = .silicon → z = s.ccr.z) := by
  cases h : s.params.incDec16Z with
  | any => exact ⟨_, s.drawn + 1, by rw [State.zAfterSp, h]; rfl, nofun, nofun⟩
  | source => exact ⟨_, s.drawn, by rw [State.zAfterSp, h]; rfl, fun _ => rfl, nofun⟩
  | silicon => exact ⟨s.ccr.z, s.drawn, by rw [State.zAfterSp, h], nofun, fun _ => rfl⟩

theorem State.zAfterY_eq (s : State) (r : Word) : ∃ z d,
    s.zAfterY r = { s with ccr := { s.ccr with z := z }, drawn := d } ∧
    (s.params.incDec16Z = .source → z = s.ccr.z) ∧ (s.params.incDec16Z = .silicon → z = decide (r = 0#16)) := by
  cases h : s.params.incDec16Z with
  | any => exact ⟨_, s.drawn + 1, by rw [State.zAfterY, h]; rfl, nofun, nofun⟩
  | source => exact ⟨s.ccr.z, s.drawn, by rw [State.zAfterY, h], fun _ => rfl, nofun⟩
  | silicon => exact ⟨_, s.drawn, by rw [State.zAfterY, h]; rfl, nofun, fun _ => rfl⟩

theorem exec_of_state {i : Instr} {s t u : State} (exec_eq : exec i s = .next (t.setPc (s.next i))) (after : t = u) :
    exec i s = .next { u with pc := s.pc + BitVec.ofNat 16 i.length } := by
  rw [exec_eq, after]; rfl

/-- Settles O44. -/
theorem freeFlagInstructions : Obligations.FreeFlagInstructions := by
  have unsigned (v : Byte) : v.setWidth 16 = BitVec.ofNat 16 v.toNat := (BitVec.ofNat_toNat 16 v).symm
  intro s
  refine ⟨?abx, ?aby, ?des, ?ins, ?dey, ?iny⟩
  case abx =>
    obtain ⟨f, d, after, flags⟩ := (s.setX (s.x + s.b.setWidth 16)).abxyFlags_eq
    rw [← unsigned]
    exact ⟨f, d, exec_of_state rfl after, flags⟩
  case aby =>
    obtain ⟨f, d, after, flags⟩ := (s.setY (s.y + s.b.setWidth 16)).abxyFlags_eq
    rw [← unsigned]
    exact ⟨f, d, exec_of_state rfl after, flags⟩
  case des =>
    obtain ⟨z, d, after, flag⟩ := (s.setSp (s.sp - 1#16)).zAfterSp_eq (s.sp - 1#16)
    exact ⟨z, d, exec_of_state rfl after, flag⟩
  case ins =>
    obtain ⟨z, d, after, flag⟩ := (s.setSp (s.sp + 1#16)).zAfterSp_eq (s.sp + 1#16)
    exact ⟨z, d, exec_of_state rfl after, flag⟩
  case dey =>
    obtain ⟨z, d, after, flag⟩ := (s.setY (s.y - 1#16)).zAfterY_eq (s.y - 1#16)
    exact ⟨z, d, exec_of_state rfl after, flag⟩
  case iny =>
    obtain ⟨z, d, after, flag⟩ := (s.setY (s.y + 1#16)).zAfterY_eq (s.y + 1#16)
    exact ⟨z, d, exec_of_state rfl after, flag⟩

/-! ### Second names -/

theorem Ccr.and_fe (f : Ccr) : f.and 0xFE#8 = { f with c := false } := by simp [Ccr.and_eq]

theorem Ccr.and_ef (f : Ccr) : f.and 0xEF#8 = { f with i := false } := by simp [Ccr.and_eq]

theorem Ccr.and_fd (f : Ccr) : f.and 0xFD#8 = { f with v := false } := by simp [Ccr.and_eq]

/-- CLC, CLI and CLV are ANDCC with one mask each (30_encoding.md R123). -/
theorem exec_canon (i : Instr) (s : State) : exec i.canon s = exec i s := by
  cases i with
  | andcc mask =>
    simp only [Instr.canon]
    split_ifs with clc cli clv
    · rw [clc]; exact (congrArg (fun f => Host.Outcome.next ((s.setCcr f).setPc (s.pc + 2#16))) s.ccr.and_fe).symm
    · rw [cli]; exact (congrArg (fun f => Host.Outcome.next ((s.setCcr f).setPc (s.pc + 2#16))) s.ccr.and_ef).symm
    · rw [clv]; exact (congrArg (fun f => Host.Outcome.next ((s.setCcr f).setPc (s.pc + 2#16))) s.ccr.and_fd).symm
    · rfl
  | _ => rfl

/-- Settles O9. -/
theorem aliasesAgree : Obligations.AliasesAgree := fun i s => ⟨i.encode_canon, (exec_canon i s).symm⟩

/-! ### Single accesses -/

theorem State.readByte_unmapped {s : State} {a : Word} (h : s.params.mapped a = false) :
    s.readByte a = .error (.unmapped a) :=
  (State.readByte_error s a _).2 (.inl ⟨h, rfl⟩)

theorem State.readByte_unwritten {s : State} {a : Word} (h : s.params.mapped a = true)
    (empty : Memory.get s.mem a = none) : s.readByte a = .error (.unwritten a) :=
  (State.readByte_error s a _).2 (.inr ⟨h, empty, rfl⟩)

theorem State.readByte_set {s : State} {a : Word} (h : s.params.mapped a = true) (v : Byte) :
    (s.setMem (Memory.set s.mem a v)).readByte a = .ok v :=
  (State.readByte_ok _ a v).2 ⟨h, Memory.get_set_same s.mem a v⟩

/-- Settles O22. -/
theorem accessFaults : Obligations.AccessFaults := fun s a v =>
  ⟨fun unmapped => ⟨State.readByte_unmapped unmapped, (State.writeByte_error s a v _).2 (.inl ⟨unmapped, rfl⟩)⟩,
    State.readByte_unwritten, fun mapped code => (State.writeByte_error s a v _).2 (.inr ⟨mapped, code, rfl⟩),
    fun mapped data => ⟨_, State.writeByte_of_writable mapped data v, State.readByte_set mapped v,
      State.readByte_set mapped v⟩, rfl⟩

/-! ### Reset and launch -/

theorem mapped_reset (a : Word) : State.reset.params.mapped a = true := by
  have whole : AddrRange.holds ⟨0x0000#16, 0xFFFF#16⟩ a = true := by
    rw [AddrRange.holds, decide_eq_true_iff, BitVec.le_def]
    exact Nat.le_of_lt_succ (BitVec.isLt _)
  exact List.any_eq_true.2 ⟨_, List.mem_singleton_self _, whole⟩

theorem readByte_reset (a : Word) : State.reset.readByte a = .error (.unwritten a) :=
  State.readByte_unwritten (mapped_reset a) rfl

/-- Settles O13: nothing is loaded, so the first fetch fails. -/
theorem resetState : Obligations.ResetState := by
  refine ⟨rfl, rfl, rfl, rfl, rfl, rfl, by decide, rfl, readByte_reset, ?_⟩
  exact step_of_fetch_fault rfl (State.fetchMore_fault (bytes := []) (readByte_reset 0x4000#16))

theorem Record.load_wf (r : Record) {m : Memory} (h : Memory.wf m = true) : Memory.wf (r.load m) = true := by
  unfold Record.load
  split
  · exact Memory.wf_setAll m r.addr r.data h
  · exact h
  · exact h

theorem loadRecords_wf : ∀ (rs : List Record) {m : Memory}, Memory.wf m = true → Memory.wf (loadRecords rs m) = true
  | [], _, h => h
  | r :: rs, _, h => loadRecords_wf rs (r.load_wf h)

/-- Settles O14: a launch puts one and the same image in memory and in the record of the launch. -/
theorem resetHasInvariant : Obligations.ResetHasInvariant :=
  ⟨⟨rfl, rfl⟩, fun _ _ => rfl, fun _ _ rs =>
    ⟨⟨loadRecords_wf rs rfl, loadRecords_wf rs rfl⟩, fun _ _ => rfl⟩⟩

/-! ### Addressing forms -/

/-- Settles O24: each form's address is its sum, by definition. -/
theorem constantOffsets : Obligations.ConstantOffsets := fun _ _ _ =>
  ⟨⟨rfl, rfl, rfl, rfl⟩, ⟨rfl, rfl, rfl, rfl⟩, fun _ => ⟨rfl, rfl⟩, fun _ => ⟨rfl, rfl⟩, fun _ => ⟨rfl, rfl⟩⟩

theorem stepOf_auto (r : AutoReg) (m : AutoMode) (n : BitVec 4) (s : State) :
    stepOf (some (.auto r m n)) s = s.setAuto r (s.auto r + BitVec.ofInt 16 (autoAdj n)) := rfl

theorem autoAdj_eq (n : BitVec 4) :
    (n.toNat < 8 → autoAdj n = n.toNat + 1) ∧ (8 ≤ n.toNat → autoAdj n = (n.toNat : Int) - 16) := by
  have top : n.getLsbD 3 = decide (8 ≤ n.toNat) := (BitVec.msb_eq_getLsbD_last n).symm.trans (BitVec.msb_eq_decide n)
  rw [autoAdj, top]
  constructor <;> intro h
  · rw [if_neg (by simpa using h)]
  · rw [if_pos (decide_eq_true h)]

/-- Settles O26. -/
theorem autoForms : Obligations.AutoForms := by
  refine ⟨autoAdj_eq, fun s next r n => ⟨⟨_, ?pre, rfl, ?_⟩, ⟨_, rfl, rfl, ?_⟩, ⟨rfl, rfl, rfl⟩, fun m => ?frame⟩⟩
  case pre => rw [stepOf_auto, State.setAuto_auto]; rfl
  case frame =>
    rw [stepOf_auto]
    exact ⟨State.setAuto_a s r _, State.setAuto_b s r _, State.setAuto_ccr s r _, State.setAuto_mem s r _,
      fun q other => State.setAuto_other s r q _ other⟩
  all_goals exact State.setAuto_auto s r _

end Sys2Proof.Machine
end

section
/-! What every completed instruction leaves as it was (10_state.md R35; 20_memory.md R60, R66; 00_scope.md R17): one
effect for each instruction, from which the laws about all steps follow. -/

namespace Sys2Proof.Machine

open Sys2Proof

/-! ### Memory after permitted stores -/

/-- `m` comes from `m₀` by stores that the parameters permit. -/
inductive Stored (p : Params) (m₀ : Memory) : Memory → Prop where
  | refl : Stored p m₀ m₀
  | set {m : Memory} (a : Word) (v : Byte) : p.isCode a = false → Stored p m₀ m → Stored p m₀ (Memory.set m a v)

namespace Stored

variable {p : Params} {m₀ m : Memory}

theorem wf (h : Stored p m₀ m) (hm : Memory.wf m₀ = true) : Memory.wf m = true := by
  induction h with
  | refl => exact hm
  | set a v _ _ ih => exact Memory.wf_set _ a v ih

theorem get_code (h : Stored p m₀ m) {a : Word} (code : p.isCode a = true) : Memory.get m a = Memory.get m₀ a := by
  induction h with
  | refl => rfl
  | set b v data _ ih =>
    have other : a ≠ b := fun same => by rw [same, data] at code; cases code
    rw [Memory.get_set_other _ b a v other, ih]

theorem get_some (h : Stored p m₀ m) {a : Word} {v : Byte} (held : Memory.get m₀ a = some v) :
    ∃ w, Memory.get m a = some w := by
  induction h with
  | refl => exact ⟨v, held⟩
  | set b w _ _ ih =>
    rw [Memory.get_set]
    split_ifs
    · exact ⟨w, rfl⟩
    · exact ih

end Stored

/-! ### The mask bits -/

/-- The instructions that can change H (00_scope.md R17). -/
def writesH : Instr → Bool
  | .aba | .adda _ | .addb _ | .adca _ | .adcb _ | .abx | .aby | .tap | .andcc _ | .orcc _ => true
  | _ => false

/-- The instructions that can change CCR.X and CCR.S. -/
def writesXS : Instr → Bool
  | .tap | .andcc _ | .orcc _ => true
  | _ => false

/-- The instructions that can change I. -/
def writesI : Instr → Bool
  | .cli | .tap | .andcc _ | .orcc _ => true
  | _ => false

/-- The flags `g` after instruction `i` have the mask bits of the flags `f` before it, but where `i` can change them. -/
structure KeepsMasks (i : Instr) (f g : Ccr) : Prop where
  keeps_h : writesH i = false → g.h = f.h
  keeps_i : writesI i = false → g.i = f.i
  keeps_x : writesXS i = false → g.x = f.x
  keeps_s : writesXS i = false → g.s = f.s

theorem KeepsMasks.of_eq {i : Instr} {f g : Ccr} (h : g.h = f.h) (hi : g.i = f.i) (hx : g.x = f.x) (hs : g.s = f.s) :
    KeepsMasks i f g := ⟨fun _ => h, fun _ => hi, fun _ => hx, fun _ => hs⟩

/-! ### The effect of an instruction -/

/-- What completing instruction `i` in `s` with `t` as the next state keeps. -/
structure Effect (i : Instr) (s t : State) : Prop where
  params : t.params = s.params
  mem : Stored s.params s.mem t.mem
  halted : i ≠ .swi → t.halted = s.halted
  masks : KeepsMasks i s.ccr t.ccr

/-- `u` comes from `t` by changes of registers, of flags that are no mask bits, and of the free values drawn. -/
structure RegistersOnly (i : Instr) (t u : State) : Prop where
  params : u.params = t.params
  mem : u.mem = t.mem
  halted : u.halted = t.halted
  masks : KeepsMasks i t.ccr u.ccr

theorem Effect.of_stepped {i : Instr} {s t u : State} (stepped : Stepped s t) (h : RegistersOnly i t u) :
    Effect i s u := by
  obtain ⟨-, -, -, ccr_eq, mem_eq, params_eq, halted_eq, -⟩ := stepped.keeps
  refine ⟨h.params.trans params_eq, ?_, fun _ => h.halted.trans halted_eq, ccr_eq ▸ h.masks⟩
  rw [h.mem, mem_eq]
  exact .refl

theorem Effect.of_write {i : Instr} {s t u w : State} {ea : Word} {v : Byte} (stepped : Stepped s t)
    (write : t.writeByte ea v = .ok u) (h : RegistersOnly i u w) : Effect i s w := by
  obtain ⟨-, -, -, ccr_eq, mem_eq, params_eq, halted_eq, -⟩ := stepped.keeps
  obtain ⟨-, data, rfl⟩ := (State.writeByte_ok t u ea v).1 write
  refine ⟨h.params.trans params_eq, ?_, fun _ => h.halted.trans halted_eq, ccr_eq ▸ h.masks⟩
  rw [h.mem, State.setMem_mem, mem_eq]
  exact .set ea v (params_eq ▸ data) .refl

theorem Effect.of_writeWord {i : Instr} {s t u w : State} {ea v : Word} (stepped : Stepped s t)
    (write : t.writeWord ea v = .ok u) (h : RegistersOnly i u w) : Effect i s w := by
  obtain ⟨-, -, -, ccr_eq, mem_eq, params_eq, halted_eq, -⟩ := stepped.keeps
  obtain ⟨-, data, -, data', rfl⟩ := (State.writeWord_ok t u ea v).1 write
  refine ⟨h.params.trans params_eq, ?_, fun _ => h.halted.trans halted_eq, ccr_eq ▸ h.masks⟩
  rw [h.mem, State.setMem_mem, mem_eq]
  exact .set _ _ (params_eq ▸ data') (.set _ _ (params_eq ▸ data) .refl)

/-! ### The shapes -/

section shapes

variable {i : Instr} {s t : State}

theorem effect_inherent {f : State → State} (done : inherent i f s = .next t) (hf : RegistersOnly i s (f s)) :
    Effect i s t := by
  cases done
  exact .of_stepped (.inl rfl) ⟨hf.params, hf.mem, hf.halted, hf.masks⟩

theorem effect_src8 {src : Src8} {f : Byte → State → State} (done : withSrc8 i src f s = .next t)
    (hf : ∀ v u, RegistersOnly i u (f v u)) : Effect i s t := by
  obtain ⟨v, u, read, rfl⟩ := (withSrc8_next i src f s t).1 done
  obtain ⟨params, mem, halted, masks⟩ := hf v u
  exact .of_stepped (Src8.read_stepped src _ s v u read) ⟨params, mem, halted, masks⟩

theorem effect_src16 {src : Src16} {f : Word → State → State} (done : withSrc16 i src f s = .next t)
    (hf : ∀ v u, RegistersOnly i u (f v u)) : Effect i s t := by
  obtain ⟨v, u, read, rfl⟩ := (withSrc16_next i src f s t).1 done
  obtain ⟨params, mem, halted, masks⟩ := hf v u
  exact .of_stepped (Src16.read_stepped src _ s v u read) ⟨params, mem, halted, masks⟩

theorem effect_store8 {op : MemOp} {reg : State → Byte} (done : store8 i op reg s = .next t) : Effect i s t := by
  obtain ⟨ea, u, w, evaluated, write, rfl⟩ := (store8_next i op reg s t).1 done
  exact .of_write (MemOp.ea_stepped op _ s ea u evaluated) write ⟨rfl, rfl, rfl, .of_eq rfl rfl rfl rfl⟩

theorem effect_store16 {op : MemOp} {reg : State → Word} (done : store16 i op reg s = .next t) : Effect i s t := by
  obtain ⟨ea, u, w, evaluated, write, rfl⟩ := (store16_next i op reg s t).1 done
  exact .of_writeWord (MemOp.ea_stepped op _ s ea u evaluated) write ⟨rfl, rfl, rfl, .of_eq rfl rfl rfl rfl⟩

theorem effect_modifyAt {r : Except Fault (Word × State)} {f : Byte → Ccr → Byte × Ccr}
    (stepped : ∀ ea u, r = .ok (ea, u) → Stepped s u) (done : modifyAt i r f s = .next t)
    (hf : ∀ v c, KeepsMasks i c (f v c).2) : Effect i s t := by
  obtain ⟨ea, u, m, w, evaluated, -, write, rfl⟩ := (modifyAt_next i r f s t).1 done
  obtain ⟨-, -, rfl⟩ := (State.writeByte_ok u w ea _).1 write
  exact .of_write (stepped ea u evaluated) write ⟨rfl, rfl, rfl, hf m u.ccr⟩

theorem effect_modify {op : RmwOp} {f : Byte → Ccr → Byte × Ccr} (done : modify i op f s = .next t)
    (hf : ∀ v c, KeepsMasks i c (f v c).2) : Effect i s t :=
  effect_modifyAt (fun ea u => RmwOp.ea_stepped op _ s ea u) done hf

theorem effect_modifyBits {op : MemOp} {f : Byte → Ccr → Byte × Ccr} (done : modifyBits i op f s = .next t)
    (hf : ∀ v c, KeepsMasks i c (f v c).2) : Effect i s t :=
  effect_modifyAt (fun ea u => MemOp.ea_stepped op _ s ea u) done hf

theorem effect_branch {u : State} {taken : Bool} {offset : Word} (stepped : Stepped s u)
    (done : branch i taken offset u = .next t) : Effect i s t := by
  obtain rfl := (branch_next i taken offset u t).1 done
  exact .of_stepped stepped ⟨rfl, rfl, rfl, .of_eq rfl rfl rfl rfl⟩

theorem of_admitted {o : Out} (done : admitted i o = .next t) : o = .next t := ((admitted_next i o t).1 done).2

end shapes

/-! ### The instructions with a shape of their own -/

theorem Stepped.trans_effect {i : Instr} {s t u : State} (first : Stepped s t) (second : Effect i t u) : Effect i s u := by
  obtain ⟨-, -, -, ccr_eq, mem_eq, params_eq, halted_eq, -⟩ := first.keeps
  obtain ⟨params, mem, halted, masks⟩ := second
  rw [params_eq, mem_eq] at mem
  exact ⟨params.trans params_eq, mem, fun h => (halted h).trans halted_eq, ccr_eq ▸ masks⟩

theorem effect_movb {src : MovSrc8} {dst : MovDst} {s t : State} (done : exec (.movb src dst) s = .next t) :
    Effect (.movb src dst) s t := by
  have moved := of_admitted (i := .movb src dst) done
  simp only [orFault_next, Prod.exists] at moved
  obtain ⟨v, u, read, ea, w, evaluated, x, write, stop⟩ := moved
  cases stop
  exact (MovSrc8.read_stepped src _ s v u read).trans_effect
    (.of_write (MovDst.ea_stepped dst _ u ea w evaluated) write ⟨rfl, rfl, rfl, .of_eq rfl rfl rfl rfl⟩)

theorem effect_movw {src : MovSrc16} {dst : MovDst} {s t : State} (done : exec (.movw src dst) s = .next t) :
    Effect (.movw src dst) s t := by
  have moved := of_admitted (i := .movw src dst) done
  simp only [orFault_next, Prod.exists] at moved
  obtain ⟨v, u, read, ea, w, evaluated, x, write, stop⟩ := moved
  cases stop
  exact (MovSrc16.read_stepped src _ s v u read).trans_effect
    (.of_writeWord (MovDst.ea_stepped dst _ u ea w evaluated) write ⟨rfl, rfl, rfl, .of_eq rfl rfl rfl rfl⟩)

theorem exec_jsr_next {op : MemOp} {s t : State} (done : exec (.jsr op) s = .next t) :
    (Instr.jsr op).wellFormed = true ∧ ∃ target u w, MemOp.ea op (s.next (.jsr op)) s = .ok (target, u) ∧
      (u.setSp (u.sp - 2#16)).writeWord (u.sp - 2#16) (s.next (.jsr op)) = .ok w ∧ t = w.setPc target := by
  obtain ⟨wf, called⟩ := (admitted_next (.jsr op) _ t).1 done
  simp only [orFault_next, Prod.exists] at called
  obtain ⟨target, u, evaluated, w, write, stop⟩ := called
  cases stop
  exact ⟨wf, target, u, w, evaluated, write, rfl⟩

theorem effect_jsr {op : MemOp} {s t : State} (done : exec (.jsr op) s = .next t) : Effect (.jsr op) s t := by
  obtain ⟨-, target, u, w, evaluated, write, rfl⟩ := exec_jsr_next done
  refine (MemOp.ea_stepped op _ s target u evaluated).trans_effect ?_
  exact .of_writeWord (.inr ⟨.sp, u.sp - 2#16, rfl⟩) write ⟨rfl, rfl, rfl, .of_eq rfl rfl rfl rfl⟩

theorem effect_rts {s t : State} (done : exec .rts s = .next t) : Effect .rts s t := by
  obtain ⟨target, -, stop⟩ := (orFault_next (s.readWord s.sp) _ t).1 done
  cases stop
  exact .of_stepped (.inl rfl) ⟨rfl, rfl, rfl, .of_eq rfl rfl rfl rfl⟩

theorem effect_brset {op : MemOp} {mask rel : Byte} {s t : State} (done : exec (.brset op mask rel) s = .next t) :
    Effect (.brset op mask rel) s t := by
  obtain ⟨-, m, u, read, branched⟩ := (exec_brset_next op mask rel s t).1 done
  obtain ⟨ea, evaluated, -⟩ := (read8At_ok _ m u).1 read
  exact effect_branch (MemOp.ea_stepped op _ s ea u evaluated) branched

theorem effect_tst {op : RmwOp} {s t : State} (done : exec (.tst op) s = .next t) : Effect (.tst op) s t := by
  obtain ⟨⟨v, u⟩, read, stop⟩ := (orFault_next (RmwOp.read op (s.next (.tst op)) s) _ t).1 done
  cases stop
  exact .of_stepped (RmwOp.read_stepped op _ s v u read) ⟨rfl, rfl, rfl, .of_eq rfl rfl rfl rfl⟩

theorem effect_swi {s t : State} (done : exec .swi s = .next t) : Effect .swi s t := by
  cases done
  exact ⟨rfl, .refl, fun h => absurd rfl h, .of_eq rfl rfl rfl rfl⟩

theorem RegistersOnly.trans {i : Instr} {s t u : State} (first : RegistersOnly i s t) (second : RegistersOnly i t u) :
    RegistersOnly i s u where
  params := second.params.trans first.params
  mem := second.mem.trans first.mem
  halted := second.halted.trans first.halted
  masks := ⟨fun h => (second.masks.keeps_h h).trans (first.masks.keeps_h h),
    fun h => (second.masks.keeps_i h).trans (first.masks.keeps_i h),
    fun h => (second.masks.keeps_x h).trans (first.masks.keeps_x h),
    fun h => (second.masks.keeps_s h).trans (first.masks.keeps_s h)⟩

theorem registersOnly_abxyFlags {i : Instr} (h : writesH i = true) (s : State) : RegistersOnly i s s.abxyFlags := by
  obtain ⟨f, d, after, keeps_s, keeps_x, keeps_i, -⟩ := s.abxyFlags_eq
  rw [after]
  exact ⟨rfl, rfl, rfl, fun no => absurd h (ne_true_of_eq_false no), fun _ => keeps_i, fun _ => keeps_x, fun _ => keeps_s⟩

theorem registersOnly_zAfterSp (i : Instr) (s : State) (r : Word) : RegistersOnly i s (s.zAfterSp r) := by
  obtain ⟨z, d, after, -⟩ := s.zAfterSp_eq r
  rw [after]
  exact ⟨rfl, rfl, rfl, .of_eq rfl rfl rfl rfl⟩

theorem registersOnly_zAfterY (i : Instr) (s : State) (r : Word) : RegistersOnly i s (s.zAfterY r) := by
  obtain ⟨z, d, after, -⟩ := s.zAfterY_eq r
  rw [after]
  exact ⟨rfl, rfl, rfl, .of_eq rfl rfl rfl rfl⟩

theorem registersOnly_setX (i : Instr) (s : State) (v : Word) : RegistersOnly i s (s.setX v) :=
  ⟨rfl, rfl, rfl, .of_eq rfl rfl rfl rfl⟩

theorem registersOnly_setY (i : Instr) (s : State) (v : Word) : RegistersOnly i s (s.setY v) :=
  ⟨rfl, rfl, rfl, .of_eq rfl rfl rfl rfl⟩

theorem registersOnly_setSp (i : Instr) (s : State) (v : Word) : RegistersOnly i s (s.setSp v) :=
  ⟨rfl, rfl, rfl, .of_eq rfl rfl rfl rfl⟩

/-! ### All instructions -/

theorem exec_effect {i : Instr} {s t : State} (done : exec i s = .next t) : Effect i s t := by
  cases i with
  | ldaa | ldab | suba | subb | sbca | sbcb | anda | andb | eora | eorb | oraa | orab | bita | bitb | cmpa | cmpb =>
    unfold exec at done
    exact effect_src8 done fun _ _ => ⟨rfl, rfl, rfl, .of_eq rfl rfl rfl rfl⟩
  | adda | addb | adca | adcb =>
    unfold exec at done
    exact effect_src8 done fun _ _ => ⟨rfl, rfl, rfl, nofun, fun _ => rfl, fun _ => rfl, fun _ => rfl⟩
  | ldd | addd | subd | cpd =>
    unfold exec at done
    exact effect_src16 done fun _ _ => ⟨rfl, rfl, rfl, .of_eq rfl rfl rfl rfl⟩
  | ldx | ldy | lds | cps | cpx | cpy =>
    exact effect_src16 (of_admitted done) fun _ _ => ⟨rfl, rfl, rfl, .of_eq rfl rfl rfl rfl⟩
  | staa | stab => exact effect_store8 done
  | std => exact effect_store16 done
  | stx | sty | sts => exact effect_store16 (of_admitted done)
  | lsl | lsr | asl | asr | rol | ror | dec | inc | com | neg => exact effect_modify done fun _ _ => .of_eq rfl rfl rfl rfl
  | bset | bclr => exact effect_modifyBits (of_admitted done) fun _ _ => .of_eq rfl rfl rfl rfl
  | tst => exact effect_tst done
  | movb => exact effect_movb done
  | movw => exact effect_movw done
  | jsr => exact effect_jsr done
  | rts => exact effect_rts done
  | swi => exact effect_swi done
  | brset => exact effect_brset done
  | aba =>
    unfold exec at done
    exact effect_inherent done ⟨rfl, rfl, rfl, nofun, fun _ => rfl, fun _ => rfl, fun _ => rfl⟩
  | abx =>
    unfold exec at done
    exact effect_inherent done ((registersOnly_setX _ s _).trans (registersOnly_abxyFlags rfl _))
  | aby =>
    unfold exec at done
    exact effect_inherent done ((registersOnly_setY _ s _).trans (registersOnly_abxyFlags rfl _))
  | des | ins =>
    unfold exec at done
    exact effect_inherent done ((registersOnly_setSp _ s _).trans (registersOnly_zAfterSp _ _ _))
  | dey | iny =>
    unfold exec at done
    exact effect_inherent done ((registersOnly_setY _ s _).trans (registersOnly_zAfterY _ _ _))
  | cli =>
    unfold exec at done
    exact effect_inherent done ⟨rfl, rfl, rfl, fun _ => rfl, nofun, fun _ => rfl, fun _ => rfl⟩
  | tap | andcc | orcc =>
    unfold exec at done
    exact effect_inherent done ⟨rfl, rfl, rfl, nofun, nofun, nofun, nofun⟩
  | tab | tba | tpa | lsla | lslb | lsld | lsra | lsrb | lsrd | asla | aslb | asld | asra | asrb | rola | rolb | rora
  | rorb | sba | deca | decb | dex | inca | incb | inx | clc | clv | coma | comb | nega | negb | cba | tsta | tstb =>
    unfold exec at done
    exact effect_inherent done ⟨rfl, rfl, rfl, .of_eq rfl rfl rfl rfl⟩
  | _ => exact effect_branch (.inl rfl) done

/-! ### The laws of a step -/

/-- A step that answers a next state is the meaning of some instruction. -/
theorem exec_of_step {s t : State} (h : Machine.step s = .next t) : ∃ i, exec i s = .next t := by
  unfold Machine.step at h
  split at h
  · cases h
  · split at h
    · exact ⟨_, h⟩
    · cases h
    · cases h

/-- Settles O15: a step stores bytes into memory and leaves the launch image. -/
theorem stepKeepsInvariant : Obligations.StepKeepsInvariant := by
  rintro s t ⟨mem_wf, image_wf⟩ h
  obtain ⟨i, done⟩ := exec_of_step h
  have effect := exec_effect done
  exact ⟨effect.mem.wf mem_wf, effect.params ▸ image_wf⟩

/-- Settles O16: no permitted store reaches a byte that was loaded as part of an instruction. -/
theorem stepKeepsProgram : Obligations.StepKeepsProgram := by
  intro s t h
  obtain ⟨i, done⟩ := exec_of_step h
  have effect := exec_effect done
  have intact : CodeIntact s t := fun a code => effect.mem.get_code code
  refine ⟨effect.params, intact, fun a code => State.fetchByte_congr s t a effect.params (intact a code),
    fun launched => ⟨fun a code => ?_, fun a v mapped code image => ?_⟩, fun a v read => ?_⟩
  · rw [effect.params] at code ⊢
    rw [intact a code, launched a code]
  · rw [State.fetchByte_ok, effect.params, intact a code, launched a code]
    exact ⟨mapped, image⟩
  · obtain ⟨mapped, held⟩ := (State.readByte_ok s a v).1 read
    obtain ⟨w, held'⟩ := effect.mem.get_some held
    exact ⟨w, (State.readByte_ok t a w).2 ⟨effect.params ▸ mapped, held'⟩⟩

/-- Settles O12. -/
theorem onlySwiEndsTheRun : Obligations.OnlySwiEndsTheRun := by
  refine ⟨fun s => rfl, fun i s t done other => (exec_effect done).halted other, fun s ended => ?_⟩
  have is_over : s.over = true := by simpa [State.over] using ended
  rw [Machine.step, if_pos is_over]

/-! ### Who can write the mask bits -/

theorem writesH_iff {i : Instr} : writesH i = true ↔
    i = .aba ∨ (∃ src, i = .adda src) ∨ (∃ src, i = .addb src) ∨ (∃ src, i = .adca src) ∨ (∃ src, i = .adcb src) ∨
    i = .abx ∨ i = .aby ∨ i = .tap ∨ (∃ m, i = .andcc m) ∨ (∃ m, i = .orcc m) := by
  cases i <;> simp [writesH]

theorem writesI_iff {i : Instr} :
    writesI i = true ↔ i = .cli ∨ i = .tap ∨ (∃ m, i = .andcc m) ∨ (∃ m, i = .orcc m) := by
  cases i <;> simp [writesI]

theorem writesXS_iff {i : Instr} : writesXS i = true ↔ i = .tap ∨ (∃ m, i = .andcc m) ∨ (∃ m, i = .orcc m) := by
  cases i <;> simp [writesXS]

/-- Settles O17. -/
theorem writersOfMaskBits : Obligations.WritersOfMaskBits := by
  intro i s t done
  have masks := (exec_effect done).masks
  refine ⟨fun changed => writesH_iff.1 ?_, fun changed => writesI_iff.1 ?_, fun changed => writesXS_iff.1 ?_⟩
  · exact Bool.of_not_eq_false fun no => changed (masks.keeps_h no)
  · exact Bool.of_not_eq_false fun no => changed (masks.keeps_i no)
  · exact Bool.of_not_eq_false fun no => changed.elim (· (masks.keeps_x no)) (· (masks.keeps_s no))

/-- Settles O18: of the three instructions that can change CCR.X, TAP and ORCC keep a clear X bit and ANDCC only
clears bits. -/
theorem clearXStaysClear : Obligations.ClearXStaysClear := by
  intro s t sticky clear h
  obtain ⟨i, done⟩ := exec_of_step h
  obtain ⟨-, -, tap, -⟩ := transfers
  obtain ⟨andcc, orcc, -⟩ := ccrInstructions
  cases writes : writesXS i with
  | false => rw [(exec_effect done).masks.keeps_x writes, clear]
  | true =>
    obtain rfl | ⟨m, rfl⟩ | ⟨m, rfl⟩ := writesXS_iff.1 writes
    · rw [tap] at done; cases done; simp [sticky, clear]
    · rw [andcc] at done; cases done; simp [clear]
    · rw [orcc] at done; cases done; simp [sticky, clear]

end Sys2Proof.Machine
end

section
/-! Moves, subroutine call and return (40_data_transfer.md R156, R157; 46_subroutine_swi.md R370 to R373), and what a
load after a store sees (20_memory.md R51, R62). -/

namespace Sys2Proof.Machine

open Sys2Proof

/-! ### Reading back a word -/

theorem State.readByte_congr {s t : State} {a : Word} (params_eq : t.params = s.params)
    (same : Memory.get t.mem a = Memory.get s.mem a) : t.readByte a = s.readByte a :=
  State.fetchByte_congr s t a params_eq same

theorem State.readWord_of_bytes {s : State} {a v : Word} (hi : s.readByte a = .ok (hiByte v))
    (lo : s.readByte (a + 1#16) = .ok (loByte v)) : s.readWord a = .ok v :=
  (State.readWord_ok s a v).2 ⟨_, _, hi, lo, (join_hi_lo v).symm⟩

theorem State.readWord_writeWord {s t : State} {a v : Word} (h : s.writeWord a v = .ok t) : t.readWord a = .ok v :=
  State.readWord_of_bytes (State.readByte_writeWord_high h) (State.readByte_writeWord_low h)

/-! ### Moves -/

theorem exec_movb {src : MovSrc8} {dst : MovDst} {s t u w : State} {v : Byte} {ea : Word}
    (wf : (Instr.movb src dst).wellFormed = true) (read : MovSrc8.read src (s.next (.movb src dst)) s = .ok (v, t))
    (evaluated : MovDst.ea dst (s.next (.movb src dst)) t = .ok (ea, u)) (write : u.writeByte ea v = .ok w) :
    exec (.movb src dst) s = .next (w.setPc (s.next (.movb src dst))) := by
  change execMovb src dst s = _
  simp only [execMovb, admitted_of_wellFormed wf, orFault, read, evaluated, write]

theorem exec_movw {src : MovSrc16} {dst : MovDst} {s t u w : State} {v ea : Word}
    (wf : (Instr.movw src dst).wellFormed = true) (read : MovSrc16.read src (s.next (.movw src dst)) s = .ok (v, t))
    (evaluated : MovDst.ea dst (s.next (.movw src dst)) t = .ok (ea, u)) (write : u.writeWord ea v = .ok w) :
    exec (.movw src dst) s = .next (w.setPc (s.next (.movw src dst))) := by
  change execMovw src dst s = _
  simp only [execMovw, admitted_of_wellFormed wf, orFault, read, evaluated, write]

/-- Two operands evaluated one after the other leave memory and parameters alone. -/
theorem stepOf_stepOf_keeps (f g : Option IdxForm) (s : State) :
    (stepOf g (stepOf f s)).mem = s.mem ∧ (stepOf g (stepOf f s)).params = s.params := by
  obtain ⟨-, -, -, -, mem_eq, params_eq, -⟩ := (stepped_stepOf f s).keeps
  obtain ⟨-, -, -, -, mem_eq', params_eq', -⟩ := (stepped_stepOf g (stepOf f s)).keeps
  exact ⟨mem_eq'.trans mem_eq, params_eq'.trans params_eq⟩

/-- The third clause of `Moves`: the word is read whole before its second byte is overwritten. -/
theorem movw_to_next_address {s : State} {a v : Word} (read : s.readWord a = .ok v)
    (mapped : s.params.mapped (a + 2#16) = true) (data : s.params.isCode (a + 1#16) = false)
    (data' : s.params.isCode (a + 2#16) = false) :
    ∃ t, exec (.movw (.ext a) (.ext (a + 1#16))) s = .next t ∧ t.readWord (a + 1#16) = .ok v ∧
      t.readByte a = .ok (hiByte v) := by
  obtain ⟨hi, lo, read_hi, read_lo, rfl⟩ := (State.readWord_ok s a v).1 read
  have next_next : a + 1#16 + 1#16 = a + 2#16 := by bv_omega
  have write := State.writeWord_of_writable (State.mapped_of_readByte read_lo) data (next_next ▸ mapped)
    (next_next ▸ data') (join hi lo)
  have word_read := State.readWord_writeWord write
  refine ⟨_, exec_movw rfl ((read16At_ok _ _ s).2 ⟨a, rfl, read⟩) rfl write, word_read, ?_⟩
  have other : a ≠ a + 1#16 + 1#16 := by bv_omega
  obtain ⟨-, -, elsewhere⟩ := Memory.get_set_word s.mem (a + 1#16) (join hi lo)
  have kept := elsewhere a (ne_add_one a) other
  obtain ⟨mapped_hi, held⟩ := (State.readByte_ok s a hi).1 read_hi
  exact (State.readByte_ok _ a _).2 ⟨mapped_hi, kept.trans (held.trans (congrArg some (hiByte_join hi lo).symm))⟩

/-- Settles O39. -/
theorem moves : Obligations.Moves := by
  refine ⟨fun src dst s t u v ea wf read evaluated mapped data => ?byte,
    fun src dst s t u v ea wf read evaluated mapped data mapped' data' => ?word,
    fun s a v read mapped data data' => movw_to_next_address read mapped data data'⟩
  case byte =>
    obtain rfl := MovSrc8.eq_stepOf_of_read read
    obtain rfl := MovDst.eq_stepOf_of_ea evaluated
    obtain ⟨mem_eq, params_eq⟩ := stepOf_stepOf_keeps src.form dst.form s
    have write := State.writeByte_of_writable (params_eq ▸ mapped) (params_eq ▸ data) v
    rw [mem_eq] at write
    exact ⟨Memory.set s.mem ea v, exec_movb wf read evaluated write, Memory.get_set_same _ _ _,
      fun a other => Memory.get_set_other _ _ _ _ other⟩
  case word =>
    obtain rfl := MovSrc16.eq_stepOf_of_read read
    obtain rfl := MovDst.eq_stepOf_of_ea evaluated
    obtain ⟨mem_eq, params_eq⟩ := stepOf_stepOf_keeps src.form dst.form s
    have write := State.writeWord_of_writable (params_eq ▸ mapped) (params_eq ▸ data) (params_eq ▸ mapped')
      (params_eq ▸ data') v
    rw [mem_eq] at write
    exact ⟨Memory.set (Memory.set s.mem ea (hiByte v)) (ea + 1#16) (loByte v), exec_movw wf read evaluated write,
      Memory.get_set_word s.mem ea v⟩

/-! ### Call and return -/

theorem exec_jsr {op : MemOp} {s t u : State} {target : Word} (wf : (Instr.jsr op).wellFormed = true)
    (evaluated : MemOp.ea op (s.next (.jsr op)) s = .ok (target, t))
    (write : (t.setSp (t.sp - 2#16)).writeWord (t.sp - 2#16) (s.next (.jsr op)) = .ok u) :
    exec (.jsr op) s = .next (u.setPc target) := by
  change execJsr op s = _
  simp only [execJsr, admitted_of_wellFormed wf, orFault, evaluated, write]

theorem exec_rts {s : State} {target : Word} (read : s.readWord s.sp = .ok target) :
    exec .rts s = .next { s with sp := s.sp + 2#16, pc := target } := by
  change execRts s = _
  rw [execRts, read]; rfl

theorem exec_rts_fault {s : State} {e : Fault} (fault : s.readWord s.sp = .error e) : exec .rts s = .fault e := by
  change execRts s = _
  rw [execRts, fault]; rfl

/-- Settles O54: an admitted operand of JSR does not step SP. -/
theorem callAndReturn : Obligations.CallAndReturn := by
  refine ⟨fun op s t target wf evaluated mapped data mapped' data' => ?_, fun s target => exec_rts,
    fun s e => exec_rts_fault⟩
  obtain rfl := MemOp.eq_stepOf_of_ea evaluated
  obtain ⟨-, -, -, -, mem_eq, params_eq, -⟩ := (stepped_stepOf op.form s).keeps
  have sp_eq : (stepOf op.form s).sp = s.sp := stepOf_auto_of_notStepping (r := .sp) wf s
  have low : s.sp - 2#16 + 1#16 = s.sp - 1#16 := by bv_omega
  have write := State.writeWord_of_writable (s := (stepOf op.form s).setSp (s.sp - 2#16)) (a := s.sp - 2#16)
    (params_eq ▸ mapped) (params_eq ▸ data) (low ▸ params_eq ▸ mapped') (low ▸ params_eq ▸ data') (s.next (.jsr op))
  have run := exec_jsr wf evaluated (by rw [sp_eq]; exact write)
  rw [State.setSp_mem, mem_eq] at run
  rw [← low]
  exact ⟨_, run, Memory.get_set_word s.mem _ _⟩

/-- Settles O55: RTS reads the word that JSR wrote, at the same SP. -/
theorem returnUndoesCall : Obligations.ReturnUndoesCall := by
  intro op s t called
  obtain ⟨wf, target, u, w, evaluated, write, rfl⟩ := exec_jsr_next called
  have return_read := State.readWord_writeWord write
  obtain ⟨-, -, -, -, rfl⟩ := (State.writeWord_ok _ w _ _).1 write
  obtain rfl := MemOp.eq_stepOf_of_ea evaluated
  obtain ⟨a_eq, b_eq, -, ccr_eq, -⟩ := (stepped_stepOf op.form s).keeps
  have sp_eq : (stepOf op.form s).sp = s.sp := stepOf_auto_of_notStepping (r := .sp) wf s
  refine ⟨_, exec_rts return_read, rfl, ?_, a_eq, b_eq, ccr_eq, rfl⟩
  change (stepOf op.form s).sp - 2#16 + 2#16 = s.sp
  rw [BitVec.sub_add_cancel, sp_eq]

/-! ### A load after a store -/

theorem exec_std_ext {s : State} {a : Word} (mapped : s.params.mapped a = true) (data : s.params.isCode a = false)
    (mapped' : s.params.mapped (a + 1#16) = true) (data' : s.params.isCode (a + 1#16) = false) :
    ∃ t, exec (.std (.ext a)) s = .next t ∧ t.readWord a = .ok s.d ∧
      ∀ b, b ≠ a → b ≠ a + 1#16 → t.readByte b = s.readByte b := by
  obtain ⟨-, -, std, -⟩ := stores
  obtain ⟨m, run, high, low, elsewhere⟩ := (std (.ext a) s rfl).1 a s rfl mapped data mapped' data'
  refine ⟨_, run, State.readWord_of_bytes ((State.readByte_ok _ a _).2 ⟨mapped, high⟩)
    ((State.readByte_ok _ (a + 1#16) _).2 ⟨mapped', low⟩), fun b hb hb' => ?_⟩
  exact State.readByte_congr rfl (elsewhere b hb hb')

theorem exec_ldd_ext {s : State} {a v : Word} (read : s.readWord a = .ok v) :
    ∃ t, exec (.ldd (.ext a)) s = .next t ∧ t.d = v := by
  obtain ⟨-, -, ldd, -⟩ := loads
  exact ⟨_, (ldd (.ext a) s rfl).1 v s ((read16At_ok _ v s).2 ⟨a, rfl, read⟩), join_hi_lo v⟩

theorem step_down (w : Word) : w + BitVec.ofInt 16 (autoAdj 15#4) = w - 1#16 := by
  have down : BitVec.ofInt 16 (autoAdj 15#4) = -1#16 := by decide
  rw [down, BitVec.sub_eq_add_neg]

theorem step_up (w : Word) : w + BitVec.ofInt 16 (autoAdj 0#4) = w + 1#16 := by
  have up : BitVec.ofInt 16 (autoAdj 0#4) = 1#16 := by decide
  rw [up]

/-- `1,-SP`: the field 15 steps by -1, before the access. -/
theorem ea_push (next : Word) (s : State) :
    MemOp.ea (.idx (.auto .sp .pre 15#4)) next s = .ok (s.sp - 1#16, s.setSp (s.sp - 1#16)) := by
  rw [← step_down]; rfl

/-- `1,SP+`: the field 0 steps by 1, after the access. -/
theorem ea_pull (next : Word) (s : State) :
    IdxForm.ea (.auto .sp .post 0#4) next s = .ok (s.sp, s.setSp (s.sp + 1#16)) := by
  rw [← step_up]; rfl

theorem exec_push_a {s : State} (mapped : s.params.mapped (s.sp - 1#16) = true)
    (data : s.params.isCode (s.sp - 1#16) = false) :
    ∃ t, exec (.staa (.idx (.auto .sp .pre 15#4))) s = .next t ∧ t.sp = s.sp - 1#16 ∧
      t.readByte (s.sp - 1#16) = .ok s.a := by
  obtain ⟨staa, -⟩ := stores
  obtain ⟨m, run, held, -⟩ := (staa (.idx (.auto .sp .pre 15#4)) s rfl).1 _ _ (ea_push _ s) mapped data
  have stepped : stepOf (MemOp.form (.idx (.auto .sp .pre 15#4))) s = s.setSp (s.sp - 1#16) := by
    rw [← step_down]; rfl
  rw [stepped] at run
  exact ⟨_, run, rfl, (State.readByte_ok _ _ _).2 ⟨mapped, held⟩⟩

theorem exec_pull_a {s : State} {v : Byte} (read : s.readByte s.sp = .ok v) :
    ∃ u, exec (.ldaa (.idx (.auto .sp .post 0#4))) s = .next u ∧ u.a = v ∧ u.sp = s.sp + 1#16 := by
  obtain ⟨ldaa, -⟩ := loads
  have operand (next : Word) : Src8.read (.idx (.auto .sp .post 0#4)) next s = .ok (v, s.setSp (s.sp + 1#16)) :=
    (read8At_ok _ v _).2 ⟨s.sp, ea_pull next s, read⟩
  exact ⟨_, (ldaa (.idx (.auto .sp .post 0#4)) s rfl).1 v _ (operand _), rfl, step_up s.sp⟩

/-- Settles O21. -/
theorem loadSeesTheStore : Obligations.LoadSeesTheStore := by
  refine ⟨fun s a mapped data mapped' data' => ?_, fun s mapped data => ?_⟩
  · obtain ⟨t, stored, read, elsewhere⟩ := exec_std_ext mapped data mapped' data'
    obtain ⟨u, loaded, same⟩ := exec_ldd_ext read
    exact ⟨t, u, stored, loaded, same, read, elsewhere⟩
  · obtain ⟨t, pushed, sp_eq, read⟩ := exec_push_a mapped data
    refine ⟨t, pushed, sp_eq, read, fun w => ?_⟩
    obtain ⟨u, pulled, a_eq, sp_eq'⟩ := exec_pull_a (s := { t with a := w }) (v := s.a) (sp_eq.symm ▸ read)
    refine ⟨u, pulled, a_eq, sp_eq'.trans ?_⟩
    change t.sp + 1#16 = s.sp
    rw [sp_eq, BitVec.sub_add_cancel]

/-! ### Bits set and tested -/

/-- The effective address of an operand of BSET, BCLR, BRSET reads no memory and not the pc: with the index registers
and accumulators as they were it is the same again. -/
theorem MemOp.ea_congr {op : MemOp} {s t u : State} {next next' ea : Word} (ok : bitOperandOk op.form = true)
    (still : op.form.bind IdxForm.stepped = none) (ha : t.a = s.a) (hb : t.b = s.b) (hx : t.x = s.x) (hy : t.y = s.y)
    (hsp : t.sp = s.sp) (h : MemOp.ea op next s = .ok (ea, u)) : MemOp.ea op next' t = .ok (ea, t) := by
  cases op with
  | dir | ext => cases h; rfl
  | idx f =>
    cases f with
    | off5 r n | off9 r n | off16 r n =>
      cases r with
      | pc => cases ok
      | x | y | sp => cases h; simp only [MemOp.ea, IdxForm.ea, State.base, hx, hy, hsp]
    | acc r o =>
      cases r with
      | pc => cases ok
      | x | y | sp =>
        cases h
        cases o <;> simp only [MemOp.ea, IdxForm.ea, State.base, State.accOffset, State.d, ha, hb, hx, hy, hsp]
    | ind16 | indD => cases ok
    | auto => cases still

theorem stepOf_of_not_stepped {f : Option IdxForm} (still : f.bind IdxForm.stepped = none) (s : State) :
    stepOf f s = s := by
  cases f with
  | none => rfl
  | some f =>
    cases f with
    | auto => cases still
    | _ => rfl

/-- After a change of the bits of one byte, BRSET with the same operand tests the byte that the change left. -/
theorem brset_after_modifyBits {op : MemOp} {mask rel : Byte} {i : Instr} {f : Byte → Byte} {s t : State}
    (ok : bitOperandOk op.form = true) (still : op.form.bind IdxForm.stepped = none)
    (done : modifyBits i op (fun m c => logicResult (f m) c) s = .next t) :
    ∃ m, exec (.brset op mask rel) t =
      branch (.brset op mask rel) (decide (~~~(f m) &&& mask = 0x00#8)) (shortOffset rel) t := by
  obtain ⟨ea, u, m, w, evaluated, -, write, rfl⟩ := (modifyAt_next i _ _ s t).1 done
  obtain rfl := MemOp.eq_stepOf_of_ea evaluated
  rw [stepOf_of_not_stepped still] at evaluated write ⊢
  obtain ⟨mapped, -, rfl⟩ := (State.writeByte_ok s w ea _).1 write
  refine ⟨m, exec_brset ok ((read8At_ok _ _ _).2 ⟨ea, ?_, State.readByte_set mapped _⟩)⟩
  exact MemOp.ea_congr (s := s) ok still rfl rfl rfl rfl rfl evaluated

theorem set_bits_test : ∀ m mask : Byte, ~~~(m ||| mask) &&& mask = 0x00#8 := by
  intro m mask
  ext k
  simp

theorem cleared_bits_test {mask : Byte} (h : mask ≠ 0#8) (m : Byte) : ¬ ~~~(m &&& ~~~mask) &&& mask = 0x00#8 := by
  have same : ~~~(m &&& ~~~mask) &&& mask = mask := by
    ext k
    simp
    grind
  rwa [same]

/-- Settles O58. -/
theorem bitsSetThenTested : Obligations.BitsSetThenTested := by
  refine fun op mask rel s t still => ⟨fun set => ?_, fun cleared nonzero => ?_⟩
  · obtain ⟨ok, done⟩ := (admitted_next (.bset op mask) _ t).1 set
    obtain ⟨m, tested⟩ := brset_after_modifyBits (mask := mask) (rel := rel) (f := (· ||| mask)) ok still done
    rw [tested, decide_eq_true (set_bits_test m mask), branch_taken, shortOffset_eq_ofInt]
  · obtain ⟨ok, done⟩ := (admitted_next (.bclr op mask) _ t).1 cleared
    obtain ⟨m, tested⟩ := brset_after_modifyBits (mask := mask) (rel := rel) (f := (· &&& ~~~mask)) ok still done
    rw [tested, decide_eq_false (cleared_bits_test nonzero m)]
    rfl

end Sys2Proof.Machine
end

section
/-! Instructions in sequence: nine rotates (41_shift_rotate.md R195 to R200), the carry between the halves of a word
(42_arithmetic.md R237), and a branch after a compare (45_branch.md R360; 44_data_test.md R310). -/

namespace Sys2Proof.Machine

open Sys2Proof

/-! ### The same instruction several times -/

/-- If one run of `i` takes every state that shows `p` to one that shows `f p`, then `n` runs apply `f` `n` times. -/
theorem execTimes_iterate {α : Type} {i : Instr} (Shows : State → α → Prop) (f : α → α)
    (one : ∀ s p, Shows s p → ∃ t, exec i s = .next t ∧ Shows t (f p)) :
    ∀ n s p, Shows s p → ∃ t, execTimes i n s = .next t ∧ Shows t (f^[n] p)
  | 0, s, _, h => ⟨s, rfl, h⟩
  | n + 1, s, p, h => by
    obtain ⟨t, run, shows⟩ := one s p h
    obtain ⟨u, runs, shows'⟩ := execTimes_iterate Shows f one n t (f p) shows
    exact ⟨u, by rw [execTimes, run]; exact runs, shows'⟩

/-- ROL on the nine bits of a byte and C. -/
def rolPair (p : Byte × Bool) : Byte × Bool := (p.1 <<< 1 ||| BitVec.ofNat 8 p.2.toNat, p.1.getLsbD 7)

/-- ROR on the nine bits of a byte and C. -/
def rorPair (p : Byte × Bool) : Byte × Bool := (p.1 >>> 1 ||| BitVec.ofNat 8 (128 * p.2.toNat), p.1.getLsbD 0)

theorem rolPair_nine : ∀ (m : Byte) (c : Bool), rolPair^[9] (m, c) = (m, c) := by decide

theorem rorPair_nine : ∀ (m : Byte) (c : Bool), rorPair^[9] (m, c) = (m, c) := by decide

/-- Nine runs of a rotate of what `Shows` says restore it. -/
theorem nine_rotates {i : Instr} {Shows : State → Byte × Bool → Prop} {f : Byte × Bool → Byte × Bool}
    (nine : ∀ m c, f^[9] (m, c) = (m, c)) (one : ∀ s p, Shows s p → ∃ t, exec i s = .next t ∧ Shows t (f p))
    {s : State} {p : Byte × Bool} (h : Shows s p) : ∃ t, execTimes i 9 s = .next t ∧ Shows t p := by
  obtain ⟨t, run, shows⟩ := execTimes_iterate Shows f one 9 s p h
  have restored : f^[9] p = p := nine p.1 p.2
  exact ⟨t, run, restored ▸ shows⟩

/-- A holds the byte, and B is `b`. -/
def ShowsA (b : Byte) (s : State) (p : Byte × Bool) : Prop := s.a = p.1 ∧ s.ccr.c = p.2 ∧ s.b = b

/-- B holds the byte, and A is `a`. -/
def ShowsB (a : Byte) (s : State) (p : Byte × Bool) : Prop := s.b = p.1 ∧ s.ccr.c = p.2 ∧ s.a = a

/-- The byte stands at `a`, which may be written. -/
def ShowsAt (a : Word) (s : State) (p : Byte × Bool) : Prop :=
  s.readByte a = .ok p.1 ∧ s.ccr.c = p.2 ∧ s.params.isCode a = false

theorem rotate_memory {mk : RmwOp → Instr} {g : Byte → Ccr → Byte × Ccr} {f : Byte × Bool → Byte × Bool}
    (modifies : IsModify mk g) (same : ∀ m c, ((g m c).1, (g m c).2.c) = f (m, c.c)) (a : Word) (s : State)
    (p : Byte × Bool) (h : ShowsAt a s p) : ∃ t, exec (mk (.ext a)) s = .next t ∧ ShowsAt a t (f p) := by
  obtain ⟨read, carry, data⟩ := h
  have mapped := State.mapped_of_readByte read
  obtain ⟨m, run, held, -⟩ := (modifies (.ext a) s).1 a s p.1 rfl read data
  have result := same p.1 s.ccr
  rw [carry] at result
  exact ⟨_, run, (State.readByte_ok _ a _).2 ⟨mapped, held.trans (congrArg (some ·.1) result)⟩,
    congrArg Prod.snd result, data⟩

/-- Settles O33: a rotate moves nine bits in a circle. -/
theorem nineRotatesRestore : Obligations.NineRotatesRestore := by
  obtain ⟨-, -, -, -, -, -, -, -, rola, rolb, rora, rorb⟩ := registerShifts
  obtain ⟨-, -, -, -, rol, ror⟩ := memoryShifts
  refine ⟨fun s => ⟨?rola, ?rora, ?rolb, ?rorb⟩, fun s a v read data => ⟨?rol, ?ror⟩⟩
  case rola =>
    refine nine_rotates (Shows := ShowsA s.b) rolPair_nine ?_ (p := (s.a, s.ccr.c)) ⟨rfl, rfl, rfl⟩
    rintro u ⟨-, -⟩ ⟨rfl, rfl, b_eq⟩
    exact ⟨_, rola u, rfl, rfl, b_eq⟩
  case rora =>
    refine nine_rotates (Shows := ShowsA s.b) rorPair_nine ?_ (p := (s.a, s.ccr.c)) ⟨rfl, rfl, rfl⟩
    rintro u ⟨-, -⟩ ⟨rfl, rfl, b_eq⟩
    exact ⟨_, rora u, rfl, rfl, b_eq⟩
  case rolb =>
    refine nine_rotates (Shows := ShowsB s.a) rolPair_nine ?_ (p := (s.b, s.ccr.c)) ⟨rfl, rfl, rfl⟩
    rintro u ⟨-, -⟩ ⟨rfl, rfl, a_eq⟩
    exact ⟨_, rolb u, rfl, rfl, a_eq⟩
  case rorb =>
    refine nine_rotates (Shows := ShowsB s.a) rorPair_nine ?_ (p := (s.b, s.ccr.c)) ⟨rfl, rfl, rfl⟩
    rintro u ⟨-, -⟩ ⟨rfl, rfl, a_eq⟩
    exact ⟨_, rorb u, rfl, rfl, a_eq⟩
  case rol =>
    obtain ⟨t, run, read', carry, -⟩ := nine_rotates rolPair_nine (rotate_memory rol (fun _ _ => rfl) a)
      (s := s) (p := (v, s.ccr.c)) ⟨read, rfl, data⟩
    exact ⟨t, run, read', carry⟩
  case ror =>
    obtain ⟨t, run, read', carry, -⟩ := nine_rotates rorPair_nine (rotate_memory ror (fun _ _ => rfl) a)
      (s := s) (p := (v, s.ccr.c)) ⟨read, rfl, data⟩
    exact ⟨t, run, read', carry⟩

/-! ### The carry between two halves -/

theorem toNat_halves (w : Word) : w.toNat = 256 * (hiByte w).toNat + (loByte w).toNat :=
  (eq_join_iff_toNat w _ _).1 (join_hi_lo w).symm

section halves

variable (a b : Byte) (v : Word) (f : Ccr)

/-- The sum of the high halves, with the carry out of the low halves. -/
def addHigh : Byte × Ccr :=
  add8 a (hiByte v) (add8 b (loByte v) false f).2.c (add8 b (loByte v) false f).2

/-- The difference of the high halves, with the borrow out of the low halves. -/
def subHigh : Byte × Ccr :=
  sub8 a (hiByte v) (sub8 b (loByte v) false f).2.c (sub8 b (loByte v) false f).2

theorem toNat_addHigh : (addHigh a b v f).1.toNat =
    (a.toNat + (hiByte v).toNat + if b.toNat + (loByte v).toNat > 255 then 1 else 0) % 256 :=
  (toNat_add8 _ _ _ _).trans (congrArg (fun c => (a.toNat + (hiByte v).toNat + c) % 256) (toNat_decide _))

theorem toNat_subHigh : ((subHigh a b v f).1.toNat : Int) =
    ((a.toNat : Int) - (hiByte v).toNat - (if b.toNat < (loByte v).toNat then 1 else 0 : Nat)) % 256 :=
  (toNat_sub8 _ _ _ _).trans
    (congrArg (fun c : Nat => ((a.toNat : Int) - (hiByte v).toNat - c) % 256) (toNat_decide _))

theorem addHigh_c : (addHigh a b v f).2.c =
    decide (a.toNat + (hiByte v).toNat + (if b.toNat + (loByte v).toNat > 255 then 1 else 0) > 255) :=
  congrArg (fun c => decide (a.toNat + (hiByte v).toNat + c > 255)) (toNat_decide _)

theorem subHigh_c : (subHigh a b v f).2.c =
    decide (a.toNat < (hiByte v).toNat + (if b.toNat < (loByte v).toNat then 1 else 0)) :=
  congrArg (fun c => decide (a.toNat < (hiByte v).toNat + c)) (toNat_decide _)

theorem add_halves : join (addHigh a b v f).1 (add8 b (loByte v) false f).1 = (add16 (join a b) v f).1 ∧
    (addHigh a b v f).2.c = (add16 (join a b) v f).2.c ∧ (addHigh a b v f).2.v = (add16 (join a b) v f).2.v ∧
    (addHigh a b v f).2.n = (add16 (join a b) v f).2.n := by
  have a_lt : a.toNat < 256 := a.isLt
  have b_lt : b.toNat < 256 := b.isLt
  have hi_lt : (hiByte v).toNat < 256 := (hiByte v).isLt
  have lo_lt : (loByte v).toNat < 256 := (loByte v).isLt
  have d_eq := toNat_join a b
  have v_eq := toNat_halves v
  have low := toNat_add8 b (loByte v) false f
  have high := toNat_addHigh a b v f
  have whole := toNat_add16 (join a b) v f
  rw [Bool.toNat_false] at low
  refine ⟨?result, ?c, ?v, ?n⟩
  case result =>
    apply BitVec.eq_of_toNat_eq
    rw [toNat_join]
    split_ifs at high <;> omega
  case c =>
    rw [addHigh_c]
    refine decide_eq_decide.2 ?_
    split_ifs <;> omega
  case v =>
    rw [Bool.eq_iff_iff, addHigh, add8_v, add16_v, ← addHigh]
    simp only [Ne, msb8_eq_decide, msb16_eq_decide, decide_eq_decide]
    split_ifs at high <;> omega
  case n =>
    change (addHigh a b v f).1.msb = (add16 (join a b) v f).1.msb
    rw [msb8_eq_decide, msb16_eq_decide, decide_eq_decide]
    split_ifs at high <;> omega

theorem sub_halves : join (subHigh a b v f).1 (sub8 b (loByte v) false f).1 = (sub16 (join a b) v f).1 ∧
    (subHigh a b v f).2.c = (sub16 (join a b) v f).2.c ∧ (subHigh a b v f).2.v = (sub16 (join a b) v f).2.v ∧
    (subHigh a b v f).2.n = (sub16 (join a b) v f).2.n := by
  have a_lt : a.toNat < 256 := a.isLt
  have b_lt : b.toNat < 256 := b.isLt
  have hi_lt : (hiByte v).toNat < 256 := (hiByte v).isLt
  have lo_lt : (loByte v).toNat < 256 := (loByte v).isLt
  have d_eq := toNat_join a b
  have v_eq := toNat_halves v
  have low := toNat_sub8 b (loByte v) false f
  have high := toNat_subHigh a b v f
  have whole := toNat_sub16 (join a b) v f
  rw [Bool.toNat_false] at low
  refine ⟨?result, ?c, ?v, ?n⟩
  case result =>
    apply BitVec.eq_of_toNat_eq
    rw [toNat_join]
    split_ifs at high <;> omega
  case c =>
    rw [subHigh_c]
    refine decide_eq_decide.2 ?_
    split_ifs <;> omega
  case v =>
    rw [Bool.eq_iff_iff, subHigh, sub8_v, sub16_v, ← subHigh]
    simp only [Ne, msb8_eq_decide, msb16_eq_decide, decide_eq_decide]
    split_ifs at high <;> omega
  case n =>
    change (subHigh a b v f).1.msb = (sub16 (join a b) v f).1.msb
    rw [msb8_eq_decide, msb16_eq_decide, decide_eq_decide]
    split_ifs at high <;> omega

end halves

/-- Settles O34. -/
theorem carryChain : Obligations.CarryChain := by
  intro s v
  obtain ⟨sum, sum_c, sum_v, sum_n⟩ := add_halves s.a s.b v s.ccr
  obtain ⟨difference, difference_c, difference_v, difference_n⟩ := sub_halves s.a s.b v s.ccr
  refine ⟨_, _, _, _, rfl, rfl, sum.trans (join_hi_lo _).symm, sum_c, sum_v, sum_n, rfl, rfl,
    difference.trans (join_hi_lo _).symm, difference_c, difference_v, difference_n⟩

/-! ### A branch after a compare -/

/-- The conditions of the ten branches, when Z, C and N exclusive-or V say how two numbers compare, unsigned (`x`, `y`)
and signed (`x'`, `y'`). -/
structure Conditions (g : Ccr) (eq : Prop) (x y : Nat) (x' y' : Int) : Prop where
  z : g.z = true ↔ eq
  c : g.c = true ↔ x < y
  lt : (g.n ^^ g.v) = true ↔ x' < y'
  unsigned : eq ↔ x = y
  signed : eq ↔ x' = y'

theorem conditions_sub8 (a v : Byte) (f : Ccr) :
    Conditions (sub8 a v false f).2 (a = v) a.toNat v.toNat a.toInt v.toInt where
  z := by
    rw [sub8_flags]
    exact decide_eq_true_iff.trans (BitVec.sub_eq_iff_eq_add.trans (by rw [BitVec.zero_add]))
  c := decide_eq_true_iff
  lt := by
    have a_lt : a.toNat < 256 := a.isLt
    have v_lt : v.toNat < 256 := v.isLt
    have difference := toNat_sub8 a v false f
    have n_eq : (sub8 a v false f).2.n = (sub8 a v false f).1.msb := rfl
    rw [Bool.toNat_false] at difference
    rw [Bool.xor_iff_ne, Ne, Bool.eq_iff_iff, sub8_v, n_eq]
    simp only [Ne, msb8_eq_decide, decide_eq_true_iff, decide_eq_decide, toInt8_eq]
    split_ifs <;> omega
  unsigned := BitVec.toNat_inj.symm
  signed := BitVec.toInt_inj.symm

theorem conditions_sub16 (x v : Word) (f : Ccr) :
    Conditions (sub16 x v f).2 (x = v) x.toNat v.toNat x.toInt v.toInt where
  z := by
    have zero : (sub16 x v f).2.z = decide ((sub16 x v f).1 = 0x0000#16) := rfl
    rw [zero, sub16_result, decide_eq_true_iff, BitVec.sub_eq_iff_eq_add, BitVec.zero_add]
  c := decide_eq_true_iff
  lt := by
    have x_lt : x.toNat < 65536 := x.isLt
    have v_lt : v.toNat < 65536 := v.isLt
    have difference := toNat_sub16 x v f
    have n_eq : (sub16 x v f).2.n = (sub16 x v f).1.msb := rfl
    rw [Bool.xor_iff_ne, Ne, Bool.eq_iff_iff, sub16_v, n_eq]
    simp only [Ne, msb16_eq_decide, decide_eq_true_iff, decide_eq_decide, toInt16_eq]
    split_ifs <;> omega
  unsigned := BitVec.toNat_inj.symm
  signed := BitVec.toInt_inj.symm

namespace Conditions

variable {g : Ccr} {eq : Prop} {x y : Nat} {x' y' : Int} (h : Conditions g eq x y x' y')
include h

theorem beq [Decidable eq] : (g.z == true) = decide eq := by
  rw [beq_true, Bool.eq_iff_iff, h.z, decide_eq_true_iff]

theorem bne [Decidable eq] : (g.z == false) = decide (¬ eq) := by
  rw [beq_false, decide_not, ← h.beq, beq_true]

theorem blo : (g.c == true) = decide (x < y) := by
  rw [beq_true, Bool.eq_iff_iff, h.c, decide_eq_true_iff]

theorem bhs : (g.c == false) = decide (y ≤ x) := by
  rw [beq_false, ← beq_true g.c, h.blo, ← decide_not]
  exact decide_eq_decide.2 Nat.not_lt

theorem bls : ((g.c || g.z) == true) = decide (x ≤ y) := by
  rw [beq_true, Bool.eq_iff_iff, Bool.or_eq_true, h.c, h.z, h.unsigned, decide_eq_true_iff]
  exact Nat.le_iff_lt_or_eq.symm

theorem bhi : ((g.c || g.z) == false) = decide (y < x) := by
  rw [beq_false, ← beq_true (g.c || g.z), h.bls, ← decide_not]
  exact decide_eq_decide.2 Nat.not_le

theorem blt : ((g.n ^^ g.v) == true) = decide (x' < y') := by
  rw [beq_true, Bool.eq_iff_iff, h.lt, decide_eq_true_iff]

theorem bge : ((g.n ^^ g.v) == false) = decide (y' ≤ x') := by
  rw [beq_false, ← beq_true (g.n ^^ g.v), h.blt, ← decide_not]
  exact decide_eq_decide.2 Int.not_lt

theorem ble : ((g.z || (g.n ^^ g.v)) == true) = decide (x' ≤ y') := by
  rw [beq_true, Bool.eq_iff_iff, Bool.or_eq_true, h.lt, h.z, h.signed, decide_eq_true_iff]
  omega

theorem bgt : ((g.z || (g.n ^^ g.v)) == false) = decide (y' < x') := by
  rw [beq_false, ← beq_true (g.z || (g.n ^^ g.v)), h.ble, ← decide_not]
  exact decide_eq_decide.2 Int.not_le

end Conditions

/-- A branch whose condition comes to `taken` in the state `t`. -/
theorem IsBranch.exec_eq {i : Instr} {cond : Ccr → Bool} {offset : Word} (branches : IsBranch i cond offset) {t : State}
    {taken : Bool} (h : cond t.ccr = taken) : exec i t =
      .next { t with pc := t.pc + BitVec.ofNat 16 i.length + (if taken then offset else 0#16) } := by
  rw [branches, h]

/-- Settles O56. -/
theorem compareThenBranch8 : Obligations.CompareThenBranch8 := by
  intro s v rel
  have h := conditions_sub8 s.a v s.ccr
  obtain ⟨-, -, -, -, beq, bne, -, -, -, -, bhs, bhi, bls, blo, bge, bgt, ble, blt⟩ := shortBranches rel
  exact ⟨_, rfl, beq.exec_eq h.beq, bne.exec_eq h.bne, bhs.exec_eq h.bhs, bhi.exec_eq h.bhi, bls.exec_eq h.bls,
    blo.exec_eq h.blo, bge.exec_eq h.bge, bgt.exec_eq h.bgt, ble.exec_eq h.ble, blt.exec_eq h.blt⟩

/-- Settles O57. -/
theorem compareThenBranch16 : Obligations.CompareThenBranch16 := by
  intro s v rel
  have h := conditions_sub16 s.x v s.ccr
  obtain ⟨-, -, -, -, lbeq, lbne, -, -, -, -, lbhs, lbhi, lbls, lblo, lbge, lbgt, lble, lblt⟩ := longBranches rel
  exact ⟨_, rfl, lbeq.exec_eq h.beq, lbne.exec_eq h.bne, lbhs.exec_eq h.bhs, lbhi.exec_eq h.bhi, lbls.exec_eq h.bls,
    lblo.exec_eq h.blo, lbge.exec_eq h.bge, lbgt.exec_eq h.bgt, lble.exec_eq h.ble, lblt.exec_eq h.blt⟩

end Sys2Proof.Machine
end

section
/-! Load records (48_assembler_directives.md R410, R411): the text of a record read back, and its bytes in memory. -/

namespace Sys2Proof.Machine

open Sys2Proof

/-! ### Hexadecimal text -/

theorem hexDigit_hexChar : ∀ n < 16, hexDigit (hexChar n) = some n := by decide

/-- A byte from its two hexadecimal digits. -/
theorem byte_of_digits (b : Byte) : BitVec.ofNat 8 (16 * (b.toNat / 16) + b.toNat % 16) = b := by
  rw [Nat.div_add_mod, BitVec.ofNat_toNat, BitVec.setWidth_eq]

theorem hexBytes_digits (bs : List Byte) :
    hexBytes (bs.flatMap fun b => [hexChar (b.toNat / 16), hexChar (b.toNat % 16)]) = some bs := by
  induction bs with
  | nil => rfl
  | cons b bs ih =>
    have high := hexDigit_hexChar (b.toNat / 16) (Nat.div_lt_of_lt_mul b.isLt)
    have low := hexDigit_hexChar (b.toNat % 16) (Nat.mod_lt _ (by decide))
    simp only [List.flatMap_cons, List.cons_append, List.nil_append, hexBytes, high, low, ih, Option.bind_eq_bind,
      Option.bind_some, byte_of_digits, Option.pure_def]

theorem RecordKind.ofDigit_digit (k : RecordKind) : RecordKind.ofDigit k.digit = some k := by
  cases k <;> rfl

/-- The count byte counts the two bytes of the address, the data and the checksum. -/
theorem toNat_count {n : Nat} (h : n ≤ 252) : (BitVec.ofNat 8 (n + 3)).toNat = n + 3 := by
  rw [BitVec.toNat_ofNat]
  exact Nat.mod_eq_of_lt (by omega)

theorem parseRecord_text (r : Record) (h : r.data.length ≤ 252) : parseRecord r.text = some r := by
  simp only [Record.text, parseRecord, RecordKind.ofDigit_digit, hexBytes_digits, Option.bind_eq_bind,
    Option.bind_some, Record.bytes, List.cons_append, List.reverse_append, List.reverse_singleton,
    List.nil_append, List.reverse_reverse, toNat_count h, join_hi_lo, and_self, if_true]

/-! ### Bytes stored at ascending addresses -/

/-- The address after `k` more bytes. -/
theorem succ_address (a : Word) (k : Nat) : a + 1#16 + BitVec.ofNat 16 k = a + BitVec.ofNat 16 (k + 1) := by
  rw [BitVec.add_assoc, Nat.add_comm k 1, BitVec.ofNat_add]

theorem Memory.get_setAll_other (vs : List Byte) : ∀ (m : Memory) (a b : Word),
    (∀ k < vs.length, b ≠ a + BitVec.ofNat 16 k) → Memory.get (Memory.setAll m a vs) b = Memory.get m b := by
  induction vs with
  | nil => exact fun _ _ _ _ => rfl
  | cons v vs ih =>
    intro m a b outside
    have ne_first : b ≠ a := by simpa using outside 0 (Nat.succ_pos _)
    have ne_rest : ∀ k < vs.length, b ≠ a + 1#16 + BitVec.ofNat 16 k := fun k lt =>
      succ_address a k ▸ outside (k + 1) (Nat.succ_lt_succ lt)
    calc Memory.get (Memory.setAll (Memory.set m a v) (a + 1#16) vs) b
        = Memory.get (Memory.set m a v) b := ih _ _ _ ne_rest
      _ = Memory.get m b := Memory.get_set_other m a b v ne_first

/-- The bytes stand at different addresses, so each is as it was stored. -/
theorem Memory.get_setAll_at (vs : List Byte) : ∀ (m : Memory) (a : Word) (k : Nat) (v : Byte),
    vs.length ≤ 65536 → vs[k]? = some v → Memory.get (Memory.setAll m a vs) (a + BitVec.ofNat 16 k) = some v := by
  induction vs with
  | nil => exact fun _ _ _ _ _ found => nomatch found
  | cons w vs ih =>
    intro m a k v fits at_k
    have fits' : vs.length + 1 ≤ 65536 := fits
    cases k with
    | zero =>
      have first : w = v := Option.some.inj at_k
      have outside : ∀ j < vs.length, a ≠ a + 1#16 + BitVec.ofNat 16 j := fun j lt same => by
        have := congrArg BitVec.toNat same
        simp only [BitVec.toNat_add, BitVec.toNat_ofNat] at this
        have := a.isLt
        omega
      rw [BitVec.add_zero, ← first]
      exact (Memory.get_setAll_other vs _ _ _ outside).trans (Memory.get_set_same m a w)
    | succ k =>
      rw [← succ_address]
      exact ih _ _ _ _ (Nat.le_of_succ_le fits') at_k

/-- Settles O59. -/
theorem Record.loadRecords : Obligations.LoadRecords := by
  rintro ⟨kind, addr, data⟩ m short
  refine ⟨parseRecord_text _ short, ?_, ?_⟩
  · rintro rfl
    exact ⟨fun k b => Memory.get_setAll_at data m addr k b (short.trans (by decide)),
      Memory.get_setAll_other data m addr⟩
  · intro other
    cases kind with
    | data => exact absurd rfl other
    | header => rfl
    | finish => rfl

end Sys2Proof.Machine
end
